-- ==== Sys2Proof/Word.lean ====
section
/-! DEFINITION. The words of the machine and their plainest arithmetic.

The spec numbers bits from 1 (least significant, 00 R12); bit `n` of the spec is Lean bit `n - 1`. -/

namespace Sys2Proof

/-- A 32-bit word: an RSU entry, a PM Bus transfer, a memory word. -/
abbrev Word := BitVec 32

/-- A 16-bit halfword: an ISU word, an ISU address, most internal registers. -/
abbrev Half := BitVec 16

/-- An 8-bit byte. -/
abbrev Byte := BitVec 8

/-- A 4-bit digit. -/
abbrev Digit := BitVec 4

/-- The number of an RSU entry, 0 to 15 (10 R40). -/
abbrev RsuNum := BitVec 4

/-- The number of a jump register, 0 to 7 (10 R53). -/
abbrev JrNum := BitVec 3

/-- Spec bit `n` (numbered from 1) of `x`. -/
def bitAt {w : Nat} (x : BitVec w) (n : Nat) : Bool := x.getLsbD (n - 1)

/-- `x` with spec bit `n` (numbered from 1) made `b`. -/
def putBit {w : Nat} (x : BitVec w) (n : Nat) (b : Bool) : BitVec w :=
  if b then x ||| (1#w <<< (n - 1)) else x &&& ~~~(1#w <<< (n - 1))

/-- One bit as a vector of width 1. -/
def bit1 (b : Bool) : BitVec 1 := BitVec.ofBool b

end Sys2Proof
end

