-- ==== Sys2Proof/Config.lean ====
section
/-! DEFINITION. What an implementation fixes and the spec leaves open: the free values, the ECC code and the
`SETUP_DECODE` record. Every constant here is opaque and has no body: nothing proves a value of it. -/

namespace Sys2Proof.Config

/-! ### Free values (93; drawn by number, log 8) -/

/-- The arbitrary word drawn as number `n` (20 R191, R210; 21 R246, R248; 40 R361). -/
opaque freeWord : Nat → BitVec 32

/-- The arbitrary halfword drawn as number `n`. -/
opaque freeHalf : Nat → BitVec 16

/-- The arbitrary byte drawn as number `n` (93 U30). -/
opaque freeByte : Nat → BitVec 8

/-- The arbitrary bit drawn as number `n` (93 U30, U31). -/
opaque freeBit : Nat → Bool

/-! ### The error-correcting code (20 R208, parameter `ECC_CODE`) -/

/-- A code the rule admits: 32 different seven-bit words, one per data bit, each with exactly three ones. -/
structure EccCode where
  /-- The code word of each data bit, data bit 1 first. -/
  words : List (BitVec 7)
  length_eq : words.length = 32
  nodup : words.Nodup
  weight : ∀ c ∈ words, ((List.range 7).countP fun i => c.getLsbD i) = 3

/-- Some code of the kind the rule admits exists: the first 32 of the 35 words of weight three. -/
def someEccCode : EccCode where
  words := (((List.range 128).map (BitVec.ofNat 7)).filter
    (fun c => ((List.range 7).countP fun i => c.getLsbD i) == 3)).take 32
  length_eq := by decide
  nodup := by decide
  weight := by decide

/-- The code of this machine: any one the rule admits; which one is not said. -/
opaque eccCodeOf [Inhabited EccCode] : EccCode

/-- The seven-bit code word of each data bit, data bit 1 first (20 R208). -/
def eccCode : List (BitVec 7) := (@eccCodeOf ⟨someEccCode⟩).words

/-! ### The `SETUP_DECODE` record (92 D36; 46 R630 to R637) -/

/-- The IBM formats the pages separate (46 R632). -/
inductive IbmFormat where
  | rr
  | rx
  | other
  deriving DecidableEq, Repr, Inhabited

/-- The NVM formats (46 R632). -/
inductive NvmFormat where
  | rr1
  | rr2
  | ri
  | rm
  | mm
  deriving DecidableEq, Repr, Inhabited

/-- `ibm_format`, of `SUR1`. -/
opaque ibmFormat : Half → IbmFormat

/-- `nvm_format`, of `SUR1`. -/
opaque nvmFormat : Half → NvmFormat

/-- `nvm_F`: the field F of Figure 4-16, of `SUR1`. -/
opaque nvmF : Half → BitVec 3

/-- `vrx_IR`: tested for 0 and 63, of `SUR1[8:1]` (46 R632). -/
opaque vrxIR : Byte → BitVec 6

/-- `vrx_M`: the field M of Figure 4-17, of `SUR1[8:1]` (46 R632). -/
opaque vrxM : Byte → BitVec 2

/-- `ibm_setup_addr`, of `SUR1` and `SUR3`. -/
opaque ibmSetupAddr : Half → Half → Half

/-- `ibm_exec_addr`, of `SUR1` and `SUR3`. -/
opaque ibmExecAddr : Half → Half → Half

/-- `desc_vector`, of `SUR1[16:9]`. -/
opaque descVector : Byte → Byte

/-- `nvm_c_bits`: the bit of `VIA`, counted from 0, that faces C bit `n + 1`. -/
opaque nvmCBit : BitVec 2 → BitVec 4

end Sys2Proof.Config
end

