-- ==== Sys2Proof/Syntax.lean ====
section
/-! DEFINITION. The instructions: one constructor per row of the opcode table (30 R335), operands as the fields of the word
(30 R321, R326 to R329). A two-word instruction carries its literal `l`. -/

namespace Sys2Proof

/-- A 4-bit literal (30 R329). -/
abbrev Lit4 := BitVec 4

/-- A byte address `rrbb`: byte `bb` of RSU `rr` (30 R326). -/
abbrev ByteAddr := BitVec 4

/-- A condition selector: bit-pair selector in the upper two bits, mask in the lower two (30 R328; 45 R572). -/
abbrev Sel := BitVec 4

/-- The instructions of the CPC. -/
inductive Instr where
  -- Memory (40)
  /-- MRR, Memory Reference Retry (40 R366). -/
  | mrr (k : RsuNum)
  /-- FR, Fetch Real (40 R367). -/
  | fr (k : RsuNum)
  /-- F, Fetch (40 R368). -/
  | f (k : RsuNum)
  /-- LFA, Load, Fetch And Augment (40 R369). -/
  | lfa (j : RsuNum) (k : RsuNum)
  /-- LFAL, Load, Fetch And Augment Linkage (40 R370). -/
  | lfal (j : RsuNum) (k : RsuNum)
  /-- LFD, Load, Fetch And Decrement (40 R371). -/
  | lfd (j : RsuNum) (k : RsuNum)
  /-- FL, Fetch Literal (40 R372). -/
  | fl (a : BitVec 6)
  /-- SR, Store Real (40 R373). -/
  | sr (j : Lit4) (k : RsuNum)
  /-- S, Store (40 R374). -/
  | s (j : Lit4) (k : RsuNum)
  /-- SA, Store And Augment (40 R375). -/
  | sa (j : Lit4) (k : RsuNum)
  /-- SD, Store And Decrement (40 R376). -/
  | sd (j : Lit4) (k : RsuNum)
  /-- SL, Store Literal (40 R377). -/
  | sl (a : BitVec 6) (k : RsuNum)
  -- Transfer and shift (41)
  /-- TIE, Transfer In External (32-63) (41 R392). -/
  | tie (n : BitVec 5) (k : RsuNum)
  /-- TIP, Transfer In Port (64-127) (41 R393). -/
  | tip (p : BitVec 6) (k : RsuNum)
  /-- TOE, Transfer Out External (32-63) (41 R394). -/
  | toe (n : BitVec 5) (k : RsuNum)
  /-- TOP, Transfer Out Port (64-127) (41 R395). -/
  | top (p : BitVec 6) (k : RsuNum)
  /-- TII, Transfer In Internal (0-31) (41 R396). -/
  | tii (n : BitVec 5) (k : RsuNum)
  /-- TOI, Transfer Out Internal (0-31) (41 R397). -/
  | toi (n : BitVec 5) (k : RsuNum)
  /-- TW, Transfer Word (41 R398). -/
  | tw (j : RsuNum) (k : RsuNum)
  /-- LTRC, Load Tally Right Clear Left (41 R399). -/
  | ltrc (lit : Byte)
  /-- LB, Load Byte (41 R400). -/
  | lb (lit : Byte)
  /-- LLD, Load Left Digit (41 R401). -/
  | lld (j : ByteAddr) (k : Lit4)
  /-- LRD, Load Right Digit (41 R402). -/
  | lrd (j : ByteAddr) (k : Lit4)
  /-- LRH, Load Right Halfword (41 R403). -/
  | lrh (k : RsuNum) (l : Half)
  /-- LRHC, Load Right Halfword Clear Left (41 R404). -/
  | lrhc (k : RsuNum) (l : Half)
  /-- SWAR, Shift Word Arithmetic Right (41 R405). -/
  | swar (j : RsuNum) (k : RsuNum)
  /-- SWLL, Shift Word Logical Left (41 R406). -/
  | swll (j : RsuNum) (k : RsuNum)
  /-- SWLLC, Shift Word Logical Left With Carry (41 R407). -/
  | swllc (j : RsuNum) (k : RsuNum)
  /-- SWLR, Shift Word Logical Right (41 R408). -/
  | swlr (j : RsuNum) (k : RsuNum)
  /-- SWLRC, Shift Word Logical Right With Carry (41 R409). -/
  | swlrc (j : RsuNum) (k : RsuNum)
  /-- SWCL, Shift Word Circular Left (41 R410). -/
  | swcl (j : RsuNum) (k : RsuNum)
  /-- TLHLH, Transfer Left Halfword To Left Halfword (41 R411). -/
  | tlhlh (j : RsuNum) (k : RsuNum)
  /-- TLHRH, Transfer Left Halfword To Right Halfword (41 R412). -/
  | tlhrh (j : RsuNum) (k : RsuNum)
  /-- TRHLH, Transfer Right Halfword To Left Halfword (41 R413). -/
  | trhlh (j : RsuNum) (k : RsuNum)
  /-- TRHRH, Transfer Right Halfword To Right Halfword (41 R414). -/
  | trhrh (j : RsuNum) (k : RsuNum)
  /-- TB, Transfer Byte (41 R415). -/
  | tb (j : ByteAddr) (k : ByteAddr)
  /-- TLDL, Transfer Left Digit To Left Digit (41 R416). -/
  | tldl (j : ByteAddr) (k : ByteAddr)
  /-- TLDR, Transfer Left Digit To Right Digit (41 R417). -/
  | tldr (j : ByteAddr) (k : ByteAddr)
  /-- TRDL, Transfer Right Digit To Left Digit (41 R418). -/
  | trdl (j : ByteAddr) (k : ByteAddr)
  /-- TRDR, Transfer Right Digit To Right Digit (41 R419). -/
  | trdr (j : ByteAddr) (k : ByteAddr)
  -- Field transfer (42)
  /-- TFLHD, Transfer Field To Left Halfword Decrement (42 R462). -/
  | tflhd (j : RsuNum) (k : RsuNum)
  /-- TFLHI, Transfer Field To Left Halfword Increment (42 R463). -/
  | tflhi (j : RsuNum) (k : RsuNum)
  /-- TFRHD, Transfer Field To Right Halfword Decrement (42 R464). -/
  | tfrhd (j : RsuNum) (k : RsuNum)
  /-- TFRHI, Transfer Field To Right Halfword Increment (42 R465). -/
  | tfrhi (j : RsuNum) (k : RsuNum)
  /-- TFFD, Transfer Field To Field Decrement (42 R460). -/
  | tffd
  /-- TFFI, Transfer Field To Field Increment (42 R461). -/
  | tffi
  /-- TFBD, Transfer Field To Byte Decrement (42 R451). -/
  | tfbd (j : ByteAddr) (k : RsuNum)
  /-- TFBI, Transfer Field To Byte Increment (42 R453). -/
  | tfbi (j : ByteAddr) (k : RsuNum)
  /-- TFBDN, Transfer Field To Byte Decrement No Tally (42 R452). -/
  | tfbdn (j : ByteAddr) (k : RsuNum)
  /-- TFB, Transfer Field To Byte (42 R450). -/
  | tfb (j : ByteAddr) (k : RsuNum)
  /-- TFBIN, Transfer Field To Byte Increment No Tally (42 R454). -/
  | tfbin (j : ByteAddr) (k : RsuNum)
  /-- TLHFD, Transfer Left Halfword To Field Decrement (42 R466). -/
  | tlhfd (j : RsuNum)
  /-- TLHFI, Transfer Left Halfword To Field Increment (42 R467). -/
  | tlhfi (j : RsuNum)
  /-- TRHFD, Transfer Right Halfword To Field Decrement (42 R468). -/
  | trhfd (j : RsuNum)
  /-- TRHFI, Transfer Right Halfword To Field Increment (42 R469). -/
  | trhfi (j : RsuNum)
  /-- TBFIN, Transfer Byte To Field Increment No Tally (42 R459). -/
  | tbfin (j : ByteAddr)
  /-- TBFD, Transfer Byte To Field Decrement (42 R456). -/
  | tbfd (j : ByteAddr)
  /-- TBFI, Transfer Byte To Field Increment (42 R458). -/
  | tbfi (j : ByteAddr)
  /-- TBFDN, Transfer Byte To Field Decrement No Tally (42 R457). -/
  | tbfdn (j : ByteAddr)
  /-- TBF, Transfer Byte To Field (42 R455). -/
  | tbf (j : ByteAddr)
  -- Logical (43)
  /-- BAF, Boolean And Field (43 R481). -/
  | baf
  /-- BOF, Boolean Or Field (43 R482). -/
  | bof
  /-- BEF, Boolean Eor Field (43 R483). -/
  | bef
  /-- BAW, Boolean And Word (43 R484). -/
  | baw (j : RsuNum) (k : RsuNum)
  /-- BOW, Boolean Or Word (43 R485). -/
  | bow (j : RsuNum) (k : RsuNum)
  /-- BEW, Boolean Eor Word (43 R486). -/
  | bew (j : RsuNum) (k : RsuNum)
  /-- BIW, Boolean Invert Word (43 R487). -/
  | biw (j : RsuNum) (k : RsuNum)
  /-- BAB, Boolean And Byte (43 R488). -/
  | bab (j : ByteAddr) (k : ByteAddr)
  /-- BOB, Boolean Or Byte (43 R489). -/
  | bob (j : ByteAddr) (k : ByteAddr)
  /-- BEB, Boolean Eor Byte (43 R490). -/
  | beb (j : ByteAddr) (k : ByteAddr)
  /-- BALD, Boolean And Left Digit (43 R491). -/
  | bald (j : ByteAddr) (k : Lit4)
  /-- BARD, Boolean And Right Digit (43 R492). -/
  | bard (j : ByteAddr) (k : Lit4)
  /-- BOLD, Boolean Or Left Digit (43 R493). -/
  | bold (j : ByteAddr) (k : Lit4)
  /-- BORD, Boolean Or Right Digit (43 R494). -/
  | bord (j : ByteAddr) (k : Lit4)
  /-- BELD, Boolean Eor Left Digit (43 R495). -/
  | beld (j : ByteAddr) (k : Lit4)
  /-- BERD, Boolean Eor Right Digit (43 R496). -/
  | berd (j : ByteAddr) (k : Lit4)
  /-- BIB, Boolean Invert Byte (43 R497). -/
  | bib (j : ByteAddr) (k : ByteAddr)
  -- Arithmetic (44)
  /-- AF, Add Field (44 R525). -/
  | af
  /-- SF, Subtract Field (44 R526). -/
  | sf
  /-- CFU, Compare Field Unsigned (44 R527). -/
  | cfu
  /-- APDF, Add Packed Decimal Field (44 R528). -/
  | apdf
  /-- SPDF, Subtract Packed Decimal Field (44 R529). -/
  | spdf
  /-- AUDF, Add Unpacked Decimal Field (44 R530). -/
  | audf
  /-- SUDF, Subtract Unpacked Decimal Field (44 R531). -/
  | sudf
  /-- AW, Add Word (44 R532). -/
  | aw (j : RsuNum) (k : RsuNum)
  /-- SW, Subtract Word (44 R533). -/
  | sw (j : RsuNum) (k : RsuNum)
  /-- AWC, Add Word With Carry (44 R534). -/
  | awc (j : RsuNum) (k : RsuNum)
  /-- SWC, Subtract Word With Carry (44 R535). -/
  | swc (j : RsuNum) (k : RsuNum)
  /-- CWS, Compare Word Signed (44 R536). -/
  | cws (j : RsuNum) (k : RsuNum)
  /-- CWU, Compare Word Unsigned (44 R537). -/
  | cwu (j : RsuNum) (k : RsuNum)
  /-- CBFU, Compare Byte To Field Unsigned (44 R538). -/
  | cbfu
  /-- ACRL, Add Cr To Literal (44 R539). -/
  | acrl (j : RsuNum) (k : Lit4)
  /-- AWLNI, Add Word With Literal No Indicator Change (44 R540). -/
  | awlni (j : RsuNum) (k : Lit4)
  /-- SWLNI, Subtract Word Literal No Indicator Change (44 R541). -/
  | swlni (j : RsuNum) (k : Lit4)
  /-- AWL, Add Word With Literal (44 R542). -/
  | awl (j : RsuNum) (k : Lit4)
  /-- SWL, Subtract Word With Literal (44 R543). -/
  | swl (j : RsuNum) (k : Lit4)
  /-- CBS, Compare Byte Signed (44 R544). -/
  | cbs (j : ByteAddr) (k : ByteAddr)
  /-- CBU, Compare Byte Unsigned (44 R545). -/
  | cbu (j : ByteAddr) (k : ByteAddr)
  /-- AB, Add Byte (44 R546). -/
  | ab (j : ByteAddr) (k : ByteAddr)
  /-- SB, Subtract Byte (44 R547). -/
  | sb (j : ByteAddr) (k : ByteAddr)
  /-- ABC, Add Byte With Carry (44 R548). -/
  | abc (j : ByteAddr) (k : ByteAddr)
  /-- SBC, Subtract Byte With Carry (44 R549). -/
  | sbc (j : ByteAddr) (k : ByteAddr)
  /-- APDB, Add Packed Decimal Byte (44 R550). -/
  | apdb (j : ByteAddr) (k : ByteAddr)
  /-- SPDB, Subtract Packed Decimal Byte (44 R551). -/
  | spdb (j : ByteAddr) (k : ByteAddr)
  /-- APDBC, Add Packed Decimal Byte With Carry (44 R552). -/
  | apdbc (j : ByteAddr) (k : ByteAddr)
  /-- SPDBC, Subtract Packed Decimal Byte With Carry (44 R553). -/
  | spdbc (j : ByteAddr) (k : ByteAddr)
  /-- SBL, Subtract Byte Literal (44 R554). -/
  | sbl (j : ByteAddr) (k : Lit4)
  -- Jump and skip (45)
  /-- JOR, Jump On Register (45 R580). -/
  | jor (j : Lit4) (k : RsuNum)
  /-- DJOR, Delayed Jump On Register (45 R581). -/
  | djor (j : Lit4) (k : RsuNum)
  /-- JPMBN, Jump On Pmbus Negative (45 R582). -/
  | jpmbn
  /-- DJPMBN, Delayed Jump On Pmbus Negative (45 R583). -/
  | djpmbn
  /-- SRB3O, Skip On Register Byte 3 Ones (45 R584). -/
  | srb3o (sel : Sel) (k : RsuNum)
  /-- DJIBO, Delayed Jump On Indicator Bit Pair Ones (45 R585). -/
  | djibo (sel : Sel) (k : Lit4)
  /-- DJIBZ, Delayed Jump On Indicator Bit Pair Zeros (45 R586). -/
  | djibz (sel : Sel) (k : Lit4)
  /-- RIBO, Return On Indicator Bit Pair Ones (45 R587). -/
  | ribo (jr : JrNum) (sel : Sel)
  /-- DRIBO, Delayed Return On Indicator Bit Pair Ones (45 R588). -/
  | dribo (jr : JrNum) (sel : Sel)
  /-- RIBZ, Return On Indicator Bit Pair Zeroes (45 R589). -/
  | ribz (jr : JrNum) (sel : Sel)
  /-- DRIBZ, Delayed Return On Indicator Bit Pair Zeros (45 R590). -/
  | dribz (jr : JrNum) (sel : Sel)
  /-- JFA, Jump On Field Array (45 R591). -/
  | jfa
  /-- JFAL, Jump On Field Array Linkage (45 R592). -/
  | jfal
  /-- JIBO, Jump On Indicator Bit Pair Ones (45 R593). -/
  | jibo (sel : Sel) (k : Lit4)
  /-- JIBZ, Jump On Indicator Bit Pair Zeros (45 R594). -/
  | jibz (sel : Sel) (k : Lit4)
  /-- JRP, Jump Relative Plus (45 R595). -/
  | jrp (disp : Byte)
  /-- JRM, Jump Relative Minus (45 R596). -/
  | jrm (disp : Byte)
  /-- DJRP, Delayed Jump Relative Plus (45 R597). -/
  | djrp (disp : Byte)
  /-- DJRM, Delayed Jump Relative Minus (45 R598). -/
  | djrm (disp : Byte)
  /-- JIOL, Jump On Indicator Ones Linkage (45 R599). -/
  | jiol (hi : Lit4) (jr : JrNum) (k : Lit4) (l : Half)
  /-- JIZL, Jump On Indicator Zeros Linkage (45 R600). -/
  | jizl (hi : Lit4) (jr : JrNum) (k : Lit4) (l : Half)
  /-- DJTNZ, Delayed Jump On Tally Not Zero (45 R601). -/
  | djtnz (disp : Byte)
  /-- JRPX, Jump Relative Plus External (45 R602). -/
  | jrpx (disp : Byte)
  /-- JRMX, Jump Relative Minus External (45 R603). -/
  | jrmx (disp : Byte)
  /-- JIBOM, Jump On Indicator Bit Pair Ones Minus (45 R604). -/
  | jibom (sel : Sel) (k : Lit4)
  /-- JIBZM, Jump On Indicator Bit Pair Zeros Minus (45 R605). -/
  | jibzm (sel : Sel) (k : Lit4)
  /-- DJIBOM, Delayed Jump On Indicator Bit Pair Ones Minus (45 R606). -/
  | djibom (sel : Sel) (k : Lit4)
  /-- DJIBZM, Delayed Jump On Indicator Bit Pair Zeros Minus (45 R607). -/
  | djibzm (sel : Sel) (k : Lit4)
  /-- JIBOL, Jump On Indicator Bit Pair Ones Long (45 R608). -/
  | jibol (sel : Sel) (l : Half)
  /-- JIBZL, Jump On Indicator Bit Pair Zeros Long (45 R609). -/
  | jibzl (sel : Sel) (l : Half)
  /-- SIBO, Skip On Indicator Bit Pair Ones (45 R610). -/
  | sibo (sel : Sel)
  /-- SIBZ, Skip On Indicator Bit Pair Zeros (45 R611). -/
  | sibz (sel : Sel)
  /-- JTNZ, Jump On Tally Not Zero (45 R612). -/
  | jtnz (disp : Byte)
  /-- SRU, Skip On Register Unequal (45 R613). -/
  | sru (j : ByteAddr) (k : ByteAddr)
  /-- SRE, Skip On Register Equal (45 R614). -/
  | sre (j : ByteAddr) (k : ByteAddr)
  /-- SRBO, Skip On Register Bit Pair Ones (45 R615). -/
  | srbo (sel : Sel) (k : ByteAddr)
  /-- SRBZ, Skip On Register Bit Pair Zeros (45 R616). -/
  | srbz (sel : Sel) (k : ByteAddr)
  /-- JRO, Jump On Register Ones (45 R617). -/
  | jro (hi : Lit4) (j : Lit4) (k : ByteAddr) (l : Half)
  /-- JRZ, Jump On Register Zeros (45 R618). -/
  | jrz (hi : Lit4) (j : Lit4) (k : ByteAddr) (l : Half)
  -- Setup and emulation (46)
  /-- SETIA, Ibm Setup Assist A (46 R650). -/
  | setia (j : RsuNum) (k : RsuNum)
  /-- SETNA, Nvm Setup Assist A (46 R651). -/
  | setna (j : RsuNum)
  /-- JMPIA, Ibm Setup Jump A (46 R640). -/
  | jmpia (jr : JrNum) (k : RsuNum)
  /-- JMPIB, Ibm Setup Jump B (46 R641). -/
  | jmpib (k : RsuNum)
  /-- JMPIC, Ibm Setup Jump C (46 R642). -/
  | jmpic
  /-- JMPNA, Nvm Setup Jump A (46 R643). -/
  | jmpna (jr : JrNum) (k : RsuNum)
  /-- JMPNB, Nvm Setup Jump B (46 R644). -/
  | jmpnb (k : RsuNum)
  /-- JMPNC, Nvm Setup Jump C (46 R645). -/
  | jmpnc
  /-- JMPVA, Vrx Setup Jump A (46 R646). -/
  | jmpva
  /-- JMPVB, Vrx Setup Jump B (46 R647). -/
  | jmpvb
  /-- JMPVC, Vrx Setup Jump C (46 R648). -/
  | jmpvc
  /-- JMPD, Nvm Descriptor Jump (46 R649). -/
  | jmpd (k : RsuNum)
  /-- MII, Map Ibm Indicators (46 R652). -/
  | mii (en : Byte)
  /-- MIN, Map Nvm Indicators (46 R653). -/
  | min (en : Byte)
  /-- MIV, Map Vrx Indicators (46 R654). -/
  | miv (en : Byte)
  /-- TSB, Transfer Byte From Setup (46 R655). -/
  | tsb (j : RsuNum)
  /-- TSLDC, Transfer Left Digit From Setup And Clear (46 R656). -/
  | tsldc (j : RsuNum)
  /-- TSRDC, Transfer Right Digit From Setup And Clear (46 R657). -/
  | tsrdc (j : RsuNum)
  /-- TSBC, Transfer Byte From Setup And Clear (46 R658). -/
  | tsbc (j : RsuNum)
  /-- SETSX, Setup Sign Extension (46 R659). -/
  | setsx (k : RsuNum)
  /-- LTS, Load Tally From Setup (46 R660). -/
  | lts
  -- Miscellaneous (47)
  /-- EAF, Extended Arithmetic Function (47 R672). -/
  | eaf (lit : Byte)
  /-- WPMB, Wait On Pm Bus (47 R673). -/
  | wpmb
  /-- RCV, Receive Fetched Data (47 R674). -/
  | rcv (j : RsuNum) (k : Lit4)
  /-- LINKM, Load Link Address Minus (47 R682). -/
  | linkm (jr : JrNum) (k : Lit4)
  /-- RTI, Restore From Traps/Interrupts (47 R680). -/
  | rti (jc : BitVec 2) (kc : Lit4)
  /-- LINK, Load Link Address (47 R681). -/
  | link (jr : JrNum) (k : Lit4)
  /-- SC, Set Controls (47 R676). -/
  | sc (lit : Byte)
  /-- RC, Reset Controls (47 R677). -/
  | rc (lit : Byte)
  /-- SCO, Set Carry To One (47 R678). -/
  | sco
  /-- RIZ, Reset Indicators To Zero (47 R679). -/
  | riz
  /-- UPKL, Unpack Left Digit (47 R683). -/
  | upkl (j : ByteAddr) (k : ByteAddr)
  /-- UPKR, Unpack Right Digit (47 R684). -/
  | upkr (j : ByteAddr) (k : ByteAddr)
  deriving DecidableEq, Repr

end Sys2Proof
end

