-- ==== Sys2Proof/WellFormed.lean ====
section
/-! DEFINITION. Which instructions the pages allow: the operand values a page forbids in words, beyond the fixed bits of its
encoding (30 R333 (c), (d)). Every other operand value is allowed. -/

namespace Sys2Proof

/-- The MARS data registers a field instruction may read through K: 9, 11 or 15 (42 R440). -/
def isFieldSource (k : RsuNum) : Bool := k == 9#4 || k == 11#4 || k == 15#4

/-- The map enables MII allows (46 R652): bits 8, 7 zero; 5 and 6 exclude each other and bits 4 to 1; no indicator
written twice (1 with 3, 2 with 4). -/
def mapEnablesIbm (en : Byte) : Bool :=
  !bitAt en 8 && !bitAt en 7 && !(bitAt en 5 && bitAt en 6) &&
    !((bitAt en 5 || bitAt en 6) && (bitAt en 1 || bitAt en 2 || bitAt en 3 || bitAt en 4)) &&
    !(bitAt en 1 && bitAt en 3) && !(bitAt en 2 && bitAt en 4)

/-- The map enables MIN allows (46 R653): bits 8 to 6 zero; 4 excludes 5. -/
def mapEnablesNvm (en : Byte) : Bool :=
  !bitAt en 8 && !bitAt en 7 && !bitAt en 6 && !(bitAt en 4 && bitAt en 5)

/-- The map enables MIV allows (46 R654): bit 8 zero; 4 excludes 5, 6 excludes 7. -/
def mapEnablesVrx (en : Byte) : Bool :=
  !bitAt en 8 && !(bitAt en 4 && bitAt en 5) && !(bitAt en 6 && bitAt en 7)

/-- The instruction is one its page allows (30 R333). -/
def Instr.wellFormed : Instr → Bool
  | .mrr _ => true
  | .fr _ => true
  | .f _ => true
  | .lfa _ _ => true
  | .lfal _ _ => true
  | .lfd _ _ => true
  | .fl _ => true
  | .sr _ _ => true
  | .s _ _ => true
  | .sa _ _ => true
  | .sd _ _ => true
  | .sl _ _ => true
  | .tie _ _ => true
  | .tip _ _ => true
  | .toe _ _ => true
  | .top _ _ => true
  | .tii _ _ => true
  | .toi _ _ => true
  | .tw _ _ => true
  | .ltrc _ => true
  | .lb _ => true
  | .lld _ _ => true
  | .lrd _ _ => true
  | .lrh _ _ => true
  | .lrhc _ _ => true
  | .swar _ _ => true
  | .swll _ _ => true
  | .swllc _ _ => true
  | .swlr _ _ => true
  | .swlrc _ _ => true
  | .swcl _ _ => true
  | .tlhlh _ _ => true
  | .tlhrh _ _ => true
  | .trhlh _ _ => true
  | .trhrh _ _ => true
  | .tb _ _ => true
  | .tldl _ _ => true
  | .tldr _ _ => true
  | .trdl _ _ => true
  | .trdr _ _ => true
  | .tflhd _ k => isFieldSource k
  | .tflhi _ k => isFieldSource k
  | .tfrhd _ k => isFieldSource k
  | .tfrhi _ k => isFieldSource k
  | .tffd => true
  | .tffi => true
  | .tfbd _ k => isFieldSource k
  | .tfbi _ k => isFieldSource k
  | .tfbdn _ k => isFieldSource k
  | .tfb _ k => isFieldSource k
  | .tfbin _ k => isFieldSource k
  | .tlhfd _ => true
  | .tlhfi _ => true
  | .trhfd _ => true
  | .trhfi _ => true
  | .tbfin _ => true
  | .tbfd _ => true
  | .tbfi _ => true
  | .tbfdn _ => true
  | .tbf _ => true
  | .baf => true
  | .bof => true
  | .bef => true
  | .baw _ _ => true
  | .bow _ _ => true
  | .bew _ _ => true
  | .biw _ _ => true
  | .bab _ _ => true
  | .bob _ _ => true
  | .beb _ _ => true
  | .bald _ _ => true
  | .bard _ _ => true
  | .bold _ _ => true
  | .bord _ _ => true
  | .beld _ _ => true
  | .berd _ _ => true
  | .bib _ _ => true
  | .af => true
  | .sf => true
  | .cfu => true
  | .apdf => true
  | .spdf => true
  | .audf => true
  | .sudf => true
  | .aw _ _ => true
  | .sw _ _ => true
  | .awc _ _ => true
  | .swc _ _ => true
  | .cws _ _ => true
  | .cwu _ _ => true
  | .cbfu => true
  | .acrl _ _ => true
  | .awlni _ _ => true
  | .swlni _ _ => true
  | .awl _ _ => true
  | .swl _ _ => true
  | .cbs _ _ => true
  | .cbu _ _ => true
  | .ab _ _ => true
  | .sb _ _ => true
  | .abc _ _ => true
  | .sbc _ _ => true
  | .apdb _ _ => true
  | .spdb _ _ => true
  | .apdbc _ _ => true
  | .spdbc _ _ => true
  | .sbl _ _ => true
  | .jor j _ => (j == 0#4)
  | .djor j _ => (j.extractLsb' 2 2 == 0#2)
  | .jpmbn => true
  | .djpmbn => true
  | .srb3o _ _ => true
  | .djibo _ _ => true
  | .djibz _ _ => true
  | .ribo _ _ => true
  | .dribo _ _ => true
  | .ribz _ _ => true
  | .dribz _ _ => true
  | .jfa => true
  | .jfal => true
  | .jibo _ _ => true
  | .jibz _ _ => true
  | .jrp _ => true
  | .jrm _ => true
  | .djrp _ => true
  | .djrm _ => true
  | .jiol _ _ _ _ => true
  | .jizl _ _ _ _ => true
  | .djtnz _ => true
  | .jrpx _ => true
  | .jrmx _ => true
  | .jibom _ _ => true
  | .jibzm _ _ => true
  | .djibom _ _ => true
  | .djibzm _ _ => true
  | .jibol _ _ => true
  | .jibzl _ _ => true
  | .sibo _ => true
  | .sibz _ => true
  | .jtnz _ => true
  | .sru _ _ => true
  | .sre _ _ => true
  | .srbo _ _ => true
  | .srbz _ _ => true
  | .jro _ _ _ _ => true
  | .jrz _ _ _ _ => true
  | .setia _ k => (k == 15#4)
  | .setna _ => true
  | .jmpia _ k => (k == 15#4)
  | .jmpib k => (k == 15#4)
  | .jmpic => true
  | .jmpna _ k => (k == 15#4)
  | .jmpnb k => (k == 15#4)
  | .jmpnc => true
  | .jmpva => true
  | .jmpvb => true
  | .jmpvc => true
  | .jmpd _ => true
  | .mii en => mapEnablesIbm en
  | .min en => mapEnablesNvm en
  | .miv en => mapEnablesVrx en
  | .tsb _ => true
  | .tsldc _ => true
  | .tsrdc _ => true
  | .tsbc _ => true
  | .setsx _ => true
  | .lts => true
  | .eaf _ => true
  | .wpmb => true
  | .rcv _ k => (k == 0#4) || (k == 1#4) || (k == 2#4)
  | .linkm _ _ => true
  | .rti _ _ => true
  | .link _ _ => true
  | .sc _ => true
  | .rc _ => true
  | .sco => true
  | .riz => true
  | .upkl _ _ => true
  | .upkr _ _ => true

/-- `wellFormed` as a proposition. -/
abbrev WellFormed (i : Instr) : Prop := i.wellFormed = true

end Sys2Proof
end

