-- ==== Sys2Proof/Decode.lean ====
section
/-! DEFINITION. Decoding an instruction word and its literal (30 R325), total, and the encoder read from the same patterns. -/

namespace Sys2Proof

/-- Why a word is no instruction (30 R333). -/
inductive DecodeError where
  /-- Operation code 5F, the only one with no instruction (R333 (a)). -/
  | unassigned
  /-- A bit that the page of this instruction fixes has another value (R333 (b), (c)). -/
  | fixedField (mnemonic : String)
  /-- An operand value that the page of this instruction forbids (R333 (c), (d)). -/
  | forbidden (mnemonic : String)
  deriving DecidableEq, Repr

/-- The mnemonic of an instruction, as the opcode table has it. -/
def Instr.mnemonic : Instr → String
  | .mrr _ => "MRR"
  | .fr _ => "FR"
  | .f _ => "F"
  | .lfa _ _ => "LFA"
  | .lfal _ _ => "LFAL"
  | .lfd _ _ => "LFD"
  | .fl _ => "FL"
  | .sr _ _ => "SR"
  | .s _ _ => "S"
  | .sa _ _ => "SA"
  | .sd _ _ => "SD"
  | .sl _ _ => "SL"
  | .tie _ _ => "TIE"
  | .tip _ _ => "TIP"
  | .toe _ _ => "TOE"
  | .top _ _ => "TOP"
  | .tii _ _ => "TII"
  | .toi _ _ => "TOI"
  | .tw _ _ => "TW"
  | .ltrc _ => "LTRC"
  | .lb _ => "LB"
  | .lld _ _ => "LLD"
  | .lrd _ _ => "LRD"
  | .lrh _ _ => "LRH"
  | .lrhc _ _ => "LRHC"
  | .swar _ _ => "SWAR"
  | .swll _ _ => "SWLL"
  | .swllc _ _ => "SWLLC"
  | .swlr _ _ => "SWLR"
  | .swlrc _ _ => "SWLRC"
  | .swcl _ _ => "SWCL"
  | .tlhlh _ _ => "TLHLH"
  | .tlhrh _ _ => "TLHRH"
  | .trhlh _ _ => "TRHLH"
  | .trhrh _ _ => "TRHRH"
  | .tb _ _ => "TB"
  | .tldl _ _ => "TLDL"
  | .tldr _ _ => "TLDR"
  | .trdl _ _ => "TRDL"
  | .trdr _ _ => "TRDR"
  | .tflhd _ _ => "TFLHD"
  | .tflhi _ _ => "TFLHI"
  | .tfrhd _ _ => "TFRHD"
  | .tfrhi _ _ => "TFRHI"
  | .tffd => "TFFD"
  | .tffi => "TFFI"
  | .tfbd _ _ => "TFBD"
  | .tfbi _ _ => "TFBI"
  | .tfbdn _ _ => "TFBDN"
  | .tfb _ _ => "TFB"
  | .tfbin _ _ => "TFBIN"
  | .tlhfd _ => "TLHFD"
  | .tlhfi _ => "TLHFI"
  | .trhfd _ => "TRHFD"
  | .trhfi _ => "TRHFI"
  | .tbfin _ => "TBFIN"
  | .tbfd _ => "TBFD"
  | .tbfi _ => "TBFI"
  | .tbfdn _ => "TBFDN"
  | .tbf _ => "TBF"
  | .baf => "BAF"
  | .bof => "BOF"
  | .bef => "BEF"
  | .baw _ _ => "BAW"
  | .bow _ _ => "BOW"
  | .bew _ _ => "BEW"
  | .biw _ _ => "BIW"
  | .bab _ _ => "BAB"
  | .bob _ _ => "BOB"
  | .beb _ _ => "BEB"
  | .bald _ _ => "BALD"
  | .bard _ _ => "BARD"
  | .bold _ _ => "BOLD"
  | .bord _ _ => "BORD"
  | .beld _ _ => "BELD"
  | .berd _ _ => "BERD"
  | .bib _ _ => "BIB"
  | .af => "AF"
  | .sf => "SF"
  | .cfu => "CFU"
  | .apdf => "APDF"
  | .spdf => "SPDF"
  | .audf => "AUDF"
  | .sudf => "SUDF"
  | .aw _ _ => "AW"
  | .sw _ _ => "SW"
  | .awc _ _ => "AWC"
  | .swc _ _ => "SWC"
  | .cws _ _ => "CWS"
  | .cwu _ _ => "CWU"
  | .cbfu => "CBFU"
  | .acrl _ _ => "ACRL"
  | .awlni _ _ => "AWLNI"
  | .swlni _ _ => "SWLNI"
  | .awl _ _ => "AWL"
  | .swl _ _ => "SWL"
  | .cbs _ _ => "CBS"
  | .cbu _ _ => "CBU"
  | .ab _ _ => "AB"
  | .sb _ _ => "SB"
  | .abc _ _ => "ABC"
  | .sbc _ _ => "SBC"
  | .apdb _ _ => "APDB"
  | .spdb _ _ => "SPDB"
  | .apdbc _ _ => "APDBC"
  | .spdbc _ _ => "SPDBC"
  | .sbl _ _ => "SBL"
  | .jor _ _ => "JOR"
  | .djor _ _ => "DJOR"
  | .jpmbn => "JPMBN"
  | .djpmbn => "DJPMBN"
  | .srb3o _ _ => "SRB3O"
  | .djibo _ _ => "DJIBO"
  | .djibz _ _ => "DJIBZ"
  | .ribo _ _ => "RIBO"
  | .dribo _ _ => "DRIBO"
  | .ribz _ _ => "RIBZ"
  | .dribz _ _ => "DRIBZ"
  | .jfa => "JFA"
  | .jfal => "JFAL"
  | .jibo _ _ => "JIBO"
  | .jibz _ _ => "JIBZ"
  | .jrp _ => "JRP"
  | .jrm _ => "JRM"
  | .djrp _ => "DJRP"
  | .djrm _ => "DJRM"
  | .jiol _ _ _ _ => "JIOL"
  | .jizl _ _ _ _ => "JIZL"
  | .djtnz _ => "DJTNZ"
  | .jrpx _ => "JRPX"
  | .jrmx _ => "JRMX"
  | .jibom _ _ => "JIBOM"
  | .jibzm _ _ => "JIBZM"
  | .djibom _ _ => "DJIBOM"
  | .djibzm _ _ => "DJIBZM"
  | .jibol _ _ => "JIBOL"
  | .jibzl _ _ => "JIBZL"
  | .sibo _ => "SIBO"
  | .sibz _ => "SIBZ"
  | .jtnz _ => "JTNZ"
  | .sru _ _ => "SRU"
  | .sre _ _ => "SRE"
  | .srbo _ _ => "SRBO"
  | .srbz _ _ => "SRBZ"
  | .jro _ _ _ _ => "JRO"
  | .jrz _ _ _ _ => "JRZ"
  | .setia _ _ => "SETIA"
  | .setna _ => "SETNA"
  | .jmpia _ _ => "JMPIA"
  | .jmpib _ => "JMPIB"
  | .jmpic => "JMPIC"
  | .jmpna _ _ => "JMPNA"
  | .jmpnb _ => "JMPNB"
  | .jmpnc => "JMPNC"
  | .jmpva => "JMPVA"
  | .jmpvb => "JMPVB"
  | .jmpvc => "JMPVC"
  | .jmpd _ => "JMPD"
  | .mii _ => "MII"
  | .min _ => "MIN"
  | .miv _ => "MIV"
  | .tsb _ => "TSB"
  | .tsldc _ => "TSLDC"
  | .tsrdc _ => "TSRDC"
  | .tsbc _ => "TSBC"
  | .setsx _ => "SETSX"
  | .lts => "LTS"
  | .eaf _ => "EAF"
  | .wpmb => "WPMB"
  | .rcv _ _ => "RCV"
  | .linkm _ _ => "LINKM"
  | .rti _ _ => "RTI"
  | .link _ _ => "LINK"
  | .sc _ => "SC"
  | .rc _ => "RC"
  | .sco => "SCO"
  | .riz => "RIZ"
  | .upkl _ _ => "UPKL"
  | .upkr _ _ => "UPKR"

/-- `i`, if the fixed bits of its encoding have their values. -/
def fixedBits (c : Bool) (i : Instr) : Except DecodeError Instr :=
  if c then .ok i else .error (.fixedField i.mnemonic)

/-- Words with G = 0 (30 R335). -/
def decodeG0 (o j k : Digit) (_l : Half) : Except DecodeError Instr :=
  if o.extractLsb' 1 3 = 0#3 then .ok (.tie (o.extractLsb' 0 1 ++ j) k) else
  if o.extractLsb' 2 2 = 2#2 then fixedBits (k == 0#4) (.fl (o.extractLsb' 0 2 ++ j)) else
  if o.extractLsb' 2 2 = 3#2 then .ok (.tip (o.extractLsb' 0 2 ++ j) k) else
  match o.toNat with
  | 2 => fixedBits (j == 0#4) (.mrr k)
  | 3 => fixedBits (j == 0#4) (.fr k)
  | 4 => fixedBits (j == 0#4) (.f k)
  | 5 => .ok (.lfa j k)
  | 6 => .ok (.lfal j k)
  | 7 => .ok (.lfd j k)
  | _ => .error .unassigned

/-- Words with G = 1 (30 R335). -/
def decodeG1 (o j k : Digit) (_l : Half) : Except DecodeError Instr :=
  if o.extractLsb' 1 3 = 0#3 then .ok (.toe (o.extractLsb' 0 1 ++ j) k) else
  if o.extractLsb' 2 2 = 2#2 then .ok (.sl (o.extractLsb' 0 2 ++ j) k) else
  if o.extractLsb' 2 2 = 3#2 then .ok (.top (o.extractLsb' 0 2 ++ j) k) else
  match o.toNat with
  | 2 => .ok (.eaf (j ++ k))
  | 3 => fixedBits ((j == 0#4) && (k == 0#4)) .wpmb
  | 4 => .ok (.sr j k)
  | 5 => .ok (.s j k)
  | 6 => .ok (.sa j k)
  | 7 => .ok (.sd j k)
  | _ => .error .unassigned

/-- Words with G = 2 (30 R335). -/
def decodeG2 (o j k : Digit) (_l : Half) : Except DecodeError Instr :=
  if o.extractLsb' 1 3 = 0#3 then .ok (.tii (o.extractLsb' 0 1 ++ j) k) else
  match o.toNat with
  | 2 => .ok (.tflhd j k)
  | 3 => .ok (.tflhi j k)
  | 4 => .ok (.tfrhd j k)
  | 5 => .ok (.tfrhi j k)
  | 6 => fixedBits ((j == 13#4) && (k == 9#4)) .tffd
  | 7 => fixedBits ((j == 13#4) && (k == 9#4)) .tffi
  | 8 => .ok (.tfbd j k)
  | 9 => .ok (.tfbi j k)
  | 10 => .ok (.tfbdn j k)
  | 11 => .ok (.tfb j k)
  | 12 => .ok (.jor j k)
  | 13 => .ok (.djor j k)
  | 14 => .ok (.setia j k)
  | 15 => fixedBits (k == 15#4) (.setna j)
  | _ => .error .unassigned

/-- Words with G = 3 (30 R335). -/
def decodeG3 (o j k : Digit) (_l : Half) : Except DecodeError Instr :=
  if o.extractLsb' 1 3 = 0#3 then .ok (.toi (o.extractLsb' 0 1 ++ j) k) else
  match o.toNat with
  | 2 => fixedBits (j.extractLsb' 3 1 == 0#1) (.jmpia (j.extractLsb' 0 3) k)
  | 3 => fixedBits (j == 0#4) (.jmpib k)
  | 4 => fixedBits ((j == 0#4) && (k == 0#4)) .jmpic
  | 5 => fixedBits (j.extractLsb' 3 1 == 0#1) (.jmpna (j.extractLsb' 0 3) k)
  | 6 => fixedBits (j == 0#4) (.jmpnb k)
  | 7 => fixedBits ((j == 0#4) && (k == 0#4)) .jmpnc
  | 8 => fixedBits ((j == 0#4) && (k == 15#4)) .jmpva
  | 9 => fixedBits ((j == 0#4) && (k == 15#4)) .jmpvb
  | 10 => fixedBits ((j == 0#4) && (k == 0#4)) .jmpvc
  | 11 => fixedBits (j == 0#4) (.jmpd k)
  | 12 => fixedBits ((j == 0#4) && (k == 0#4)) .jpmbn
  | 13 => .ok (.rcv j k)
  | 14 => fixedBits ((j == 0#4) && (k == 0#4)) .djpmbn
  | 15 => .ok (.tfbin j k)
  | _ => .error .unassigned

/-- Words with G = 4 (30 R335). -/
def decodeG4 (o j k : Digit) (_l : Half) : Except DecodeError Instr :=
  match o.toNat with
  | 0 => fixedBits ((j == 9#4) && (k == 11#4)) .af
  | 1 => fixedBits ((j == 9#4) && (k == 11#4)) .sf
  | 2 => fixedBits ((j == 9#4) && (k == 11#4)) .baf
  | 3 => fixedBits ((j == 9#4) && (k == 11#4)) .bof
  | 4 => fixedBits ((j == 9#4) && (k == 11#4)) .bef
  | 5 => fixedBits ((j == 9#4) && (k == 11#4)) .cfu
  | 6 => fixedBits ((j == 9#4) && (k == 11#4)) .apdf
  | 7 => fixedBits ((j == 9#4) && (k == 11#4)) .spdf
  | 8 => fixedBits ((j == 9#4) && (k == 11#4)) .audf
  | 9 => fixedBits ((j == 9#4) && (k == 11#4)) .sudf
  | 10 => .ok (.aw j k)
  | 11 => .ok (.sw j k)
  | 12 => .ok (.awc j k)
  | 13 => .ok (.swc j k)
  | 14 => .ok (.baw j k)
  | 15 => .ok (.bow j k)
  | _ => .error .unassigned

/-- Words with G = 5 (30 R335). -/
def decodeG5 (o j k : Digit) (l : Half) : Except DecodeError Instr :=
  match o.toNat with
  | 0 => .ok (.bew j k)
  | 1 => .ok (.tw j k)
  | 2 => .ok (.cws j k)
  | 3 => .ok (.cwu j k)
  | 4 => .ok (.mii (j ++ k))
  | 5 => .ok (.min (j ++ k))
  | 6 => .ok (.miv (j ++ k))
  | 7 => fixedBits ((j == 9#4) && (k == 11#4)) .cbfu
  | 8 => .ok (.ltrc (j ++ k))
  | 9 => .ok (.lb (j ++ k))
  | 10 => .ok (.lld j k)
  | 11 => .ok (.lrd j k)
  | 12 => fixedBits (j == 0#4) (.lrh k l)
  | 13 => fixedBits (j == 0#4) (.lrhc k l)
  | 14 => .ok (.biw j k)
  | _ => .error .unassigned

/-- Words with G = 6 (30 R335). -/
def decodeG6 (o j k : Digit) (_l : Half) : Except DecodeError Instr :=
  match o.toNat with
  | 0 => .ok (.srb3o j k)
  | 1 => fixedBits (j.extractLsb' 3 1 == 0#1) (.linkm (j.extractLsb' 0 3) k)
  | 2 => .ok (.djibo j k)
  | 3 => .ok (.djibz j k)
  | 4 => fixedBits (j.extractLsb' 3 1 == 0#1) (.ribo (j.extractLsb' 0 3) k)
  | 5 => fixedBits (j.extractLsb' 3 1 == 0#1) (.dribo (j.extractLsb' 0 3) k)
  | 6 => fixedBits (j.extractLsb' 3 1 == 0#1) (.ribz (j.extractLsb' 0 3) k)
  | 7 => fixedBits (j.extractLsb' 3 1 == 0#1) (.dribz (j.extractLsb' 0 3) k)
  | 8 => fixedBits ((j == 0#4) && (k == 0#4)) .jfa
  | 9 => fixedBits ((j == 0#4) && (k == 0#4)) .jfal
  | 10 => .ok (.jibo j k)
  | 11 => .ok (.jibz j k)
  | 12 => .ok (.jrp (j ++ k))
  | 13 => .ok (.jrm (j ++ k))
  | 14 => .ok (.djrp (j ++ k))
  | 15 => .ok (.djrm (j ++ k))
  | _ => .error .unassigned

/-- Words with G = 7 (30 R335). -/
def decodeG7 (o j k : Digit) (l : Half) : Except DecodeError Instr :=
  fixedBits (j.extractLsb' 3 1 == 0#1) (.jiol o (j.extractLsb' 0 3) k l)

/-- Words with G = 8 (30 R335). -/
def decodeG8 (o j k : Digit) (l : Half) : Except DecodeError Instr :=
  fixedBits (j.extractLsb' 3 1 == 0#1) (.jizl o (j.extractLsb' 0 3) k l)

/-- Words with G = 9 (30 R335). -/
def decodeG9 (o j k : Digit) (_l : Half) : Except DecodeError Instr :=
  match o.toNat with
  | 0 => .ok (.djtnz (j ++ k))
  | 1 => fixedBits (j.extractLsb' 2 2 == 0#2) (.rti (j.extractLsb' 0 2) k)
  | 2 => fixedBits (j.extractLsb' 3 1 == 0#1) (.link (j.extractLsb' 0 3) k)
  | 3 => .ok (.acrl j k)
  | 4 => .ok (.sc (j ++ k))
  | 5 => .ok (.rc (j ++ k))
  | 6 => fixedBits (k == 0#4) (.tsb j)
  | 7 => fixedBits (k == 0#4) (.tsldc j)
  | 8 => fixedBits (k == 0#4) (.tsrdc j)
  | 9 => fixedBits (k == 0#4) (.tsbc j)
  | 10 => fixedBits (j == 0#4) (.setsx k)
  | 11 => fixedBits ((j == 0#4) && (k == 0#4)) .lts
  | 12 => .ok (.awlni j k)
  | 13 => .ok (.swlni j k)
  | 14 => fixedBits ((j == 0#4) && (k == 0#4)) .sco
  | 15 => fixedBits ((j == 0#4) && (k == 0#4)) .riz
  | _ => .error .unassigned

/-- Words with G = A (30 R335). -/
def decodeG10 (o j k : Digit) (_l : Half) : Except DecodeError Instr :=
  match o.toNat with
  | 0 => .ok (.swar j k)
  | 1 => .ok (.swll j k)
  | 2 => .ok (.swllc j k)
  | 3 => .ok (.swlr j k)
  | 4 => .ok (.swlrc j k)
  | 5 => .ok (.swcl j k)
  | 6 => fixedBits (k == 13#4) (.tlhfd j)
  | 7 => fixedBits (k == 13#4) (.tlhfi j)
  | 8 => fixedBits (k == 13#4) (.trhfd j)
  | 9 => fixedBits (k == 13#4) (.trhfi j)
  | 10 => .ok (.tlhlh j k)
  | 11 => .ok (.tlhrh j k)
  | 12 => .ok (.trhlh j k)
  | 13 => .ok (.trhrh j k)
  | 14 => .ok (.awl j k)
  | 15 => .ok (.swl j k)
  | _ => .error .unassigned

/-- Words with G = B (30 R335). -/
def decodeG11 (o j k : Digit) (l : Half) : Except DecodeError Instr :=
  match o.toNat with
  | 0 => .ok (.jrpx (j ++ k))
  | 1 => .ok (.jrmx (j ++ k))
  | 2 => .ok (.jibom j k)
  | 3 => .ok (.jibzm j k)
  | 4 => .ok (.djibom j k)
  | 5 => .ok (.djibzm j k)
  | 6 => fixedBits (k == 0#4) (.jibol j l)
  | 7 => fixedBits (k == 0#4) (.jibzl j l)
  | 8 => fixedBits (k == 0#4) (.sibo j)
  | 9 => fixedBits (k == 0#4) (.sibz j)
  | 10 => .ok (.jtnz (j ++ k))
  | 11 => fixedBits (k == 13#4) (.tbfin j)
  | 12 => fixedBits (k == 13#4) (.tbfd j)
  | 13 => fixedBits (k == 13#4) (.tbfi j)
  | 14 => fixedBits (k == 13#4) (.tbfdn j)
  | 15 => fixedBits (k == 13#4) (.tbf j)
  | _ => .error .unassigned

/-- Words with G = C (30 R335). -/
def decodeG12 (o j k : Digit) (_l : Half) : Except DecodeError Instr :=
  match o.toNat with
  | 0 => .ok (.cbs j k)
  | 1 => .ok (.cbu j k)
  | 2 => .ok (.sru j k)
  | 3 => .ok (.sre j k)
  | 4 => .ok (.srbo j k)
  | 5 => .ok (.srbz j k)
  | 6 => .ok (.ab j k)
  | 7 => .ok (.sb j k)
  | 8 => .ok (.abc j k)
  | 9 => .ok (.sbc j k)
  | 10 => .ok (.bab j k)
  | 11 => .ok (.bob j k)
  | 12 => .ok (.beb j k)
  | 13 => .ok (.tb j k)
  | 14 => .ok (.apdb j k)
  | 15 => .ok (.spdb j k)
  | _ => .error .unassigned

/-- Words with G = D (30 R335). -/
def decodeG13 (o j k : Digit) (_l : Half) : Except DecodeError Instr :=
  match o.toNat with
  | 0 => .ok (.apdbc j k)
  | 1 => .ok (.spdbc j k)
  | 2 => .ok (.tldl j k)
  | 3 => .ok (.tldr j k)
  | 4 => .ok (.trdl j k)
  | 5 => .ok (.trdr j k)
  | 6 => .ok (.upkl j k)
  | 7 => .ok (.upkr j k)
  | 8 => .ok (.bald j k)
  | 9 => .ok (.bard j k)
  | 10 => .ok (.bold j k)
  | 11 => .ok (.bord j k)
  | 12 => .ok (.beld j k)
  | 13 => .ok (.berd j k)
  | 14 => .ok (.sbl j k)
  | 15 => .ok (.bib j k)
  | _ => .error .unassigned

/-- Words with G = E (30 R335). -/
def decodeG14 (o j k : Digit) (l : Half) : Except DecodeError Instr :=
  .ok (.jro o j k l)

/-- Words with G = F (30 R335). -/
def decodeG15 (o j k : Digit) (l : Half) : Except DecodeError Instr :=
  .ok (.jrz o j k l)

/-- The instruction whose first word has the digits `g o j k` and whose second word, if it has one, is `l`. -/
def decodeDigits (g o j k : Digit) (l : Half) : Except DecodeError Instr :=
  match g.toNat with
  | 0 => decodeG0 o j k l
  | 1 => decodeG1 o j k l
  | 2 => decodeG2 o j k l
  | 3 => decodeG3 o j k l
  | 4 => decodeG4 o j k l
  | 5 => decodeG5 o j k l
  | 6 => decodeG6 o j k l
  | 7 => decodeG7 o j k l
  | 8 => decodeG8 o j k l
  | 9 => decodeG9 o j k l
  | 10 => decodeG10 o j k l
  | 11 => decodeG11 o j k l
  | 12 => decodeG12 o j k l
  | 13 => decodeG13 o j k l
  | 14 => decodeG14 o j k l
  | _ => decodeG15 o j k l

/-- The decoder: the instruction of the word `w`, with `l` the word behind it (30 R324, R325). -/
def decode (w l : Half) : Except DecodeError Instr :=
  match decodeDigits (w.extractLsb' 12 4) (w.extractLsb' 8 4) (w.extractLsb' 4 4) (w.extractLsb' 0 4) l with
  | .ok i => if i.wellFormed then .ok i else .error (.forbidden i.mnemonic)
  | .error e => .error e

/-- The digits of the first word of an instruction, high digit first. -/
def encodeDigits : Instr → Digit × Digit × Digit × Digit
  | .mrr k => (0#4, 2#4, 0#4, k)
  | .fr k => (0#4, 3#4, 0#4, k)
  | .f k => (0#4, 4#4, 0#4, k)
  | .lfa j k => (0#4, 5#4, j, k)
  | .lfal j k => (0#4, 6#4, j, k)
  | .lfd j k => (0#4, 7#4, j, k)
  | .fl a => (0#4, 2#2 ++ (a.extractLsb' 4 2), a.extractLsb' 0 4, 0#4)
  | .sr j k => (1#4, 4#4, j, k)
  | .s j k => (1#4, 5#4, j, k)
  | .sa j k => (1#4, 6#4, j, k)
  | .sd j k => (1#4, 7#4, j, k)
  | .sl a k => (1#4, 2#2 ++ (a.extractLsb' 4 2), a.extractLsb' 0 4, k)
  | .tie n k => (0#4, 0#3 ++ (n.extractLsb' 4 1), n.extractLsb' 0 4, k)
  | .tip p k => (0#4, 3#2 ++ (p.extractLsb' 4 2), p.extractLsb' 0 4, k)
  | .toe n k => (1#4, 0#3 ++ (n.extractLsb' 4 1), n.extractLsb' 0 4, k)
  | .top p k => (1#4, 3#2 ++ (p.extractLsb' 4 2), p.extractLsb' 0 4, k)
  | .tii n k => (2#4, 0#3 ++ (n.extractLsb' 4 1), n.extractLsb' 0 4, k)
  | .toi n k => (3#4, 0#3 ++ (n.extractLsb' 4 1), n.extractLsb' 0 4, k)
  | .tw j k => (5#4, 1#4, j, k)
  | .ltrc lit => (5#4, 8#4, lit.extractLsb' 4 4, lit.extractLsb' 0 4)
  | .lb lit => (5#4, 9#4, lit.extractLsb' 4 4, lit.extractLsb' 0 4)
  | .lld j k => (5#4, 10#4, j, k)
  | .lrd j k => (5#4, 11#4, j, k)
  | .lrh k _ => (5#4, 12#4, 0#4, k)
  | .lrhc k _ => (5#4, 13#4, 0#4, k)
  | .swar j k => (10#4, 0#4, j, k)
  | .swll j k => (10#4, 1#4, j, k)
  | .swllc j k => (10#4, 2#4, j, k)
  | .swlr j k => (10#4, 3#4, j, k)
  | .swlrc j k => (10#4, 4#4, j, k)
  | .swcl j k => (10#4, 5#4, j, k)
  | .tlhlh j k => (10#4, 10#4, j, k)
  | .tlhrh j k => (10#4, 11#4, j, k)
  | .trhlh j k => (10#4, 12#4, j, k)
  | .trhrh j k => (10#4, 13#4, j, k)
  | .tb j k => (12#4, 13#4, j, k)
  | .tldl j k => (13#4, 2#4, j, k)
  | .tldr j k => (13#4, 3#4, j, k)
  | .trdl j k => (13#4, 4#4, j, k)
  | .trdr j k => (13#4, 5#4, j, k)
  | .tflhd j k => (2#4, 2#4, j, k)
  | .tflhi j k => (2#4, 3#4, j, k)
  | .tfrhd j k => (2#4, 4#4, j, k)
  | .tfrhi j k => (2#4, 5#4, j, k)
  | .tffd => (2#4, 6#4, 13#4, 9#4)
  | .tffi => (2#4, 7#4, 13#4, 9#4)
  | .tfbd j k => (2#4, 8#4, j, k)
  | .tfbi j k => (2#4, 9#4, j, k)
  | .tfbdn j k => (2#4, 10#4, j, k)
  | .tfb j k => (2#4, 11#4, j, k)
  | .tfbin j k => (3#4, 15#4, j, k)
  | .tlhfd j => (10#4, 6#4, j, 13#4)
  | .tlhfi j => (10#4, 7#4, j, 13#4)
  | .trhfd j => (10#4, 8#4, j, 13#4)
  | .trhfi j => (10#4, 9#4, j, 13#4)
  | .tbfin j => (11#4, 11#4, j, 13#4)
  | .tbfd j => (11#4, 12#4, j, 13#4)
  | .tbfi j => (11#4, 13#4, j, 13#4)
  | .tbfdn j => (11#4, 14#4, j, 13#4)
  | .tbf j => (11#4, 15#4, j, 13#4)
  | .baf => (4#4, 2#4, 9#4, 11#4)
  | .bof => (4#4, 3#4, 9#4, 11#4)
  | .bef => (4#4, 4#4, 9#4, 11#4)
  | .baw j k => (4#4, 14#4, j, k)
  | .bow j k => (4#4, 15#4, j, k)
  | .bew j k => (5#4, 0#4, j, k)
  | .biw j k => (5#4, 14#4, j, k)
  | .bab j k => (12#4, 10#4, j, k)
  | .bob j k => (12#4, 11#4, j, k)
  | .beb j k => (12#4, 12#4, j, k)
  | .bald j k => (13#4, 8#4, j, k)
  | .bard j k => (13#4, 9#4, j, k)
  | .bold j k => (13#4, 10#4, j, k)
  | .bord j k => (13#4, 11#4, j, k)
  | .beld j k => (13#4, 12#4, j, k)
  | .berd j k => (13#4, 13#4, j, k)
  | .bib j k => (13#4, 15#4, j, k)
  | .af => (4#4, 0#4, 9#4, 11#4)
  | .sf => (4#4, 1#4, 9#4, 11#4)
  | .cfu => (4#4, 5#4, 9#4, 11#4)
  | .apdf => (4#4, 6#4, 9#4, 11#4)
  | .spdf => (4#4, 7#4, 9#4, 11#4)
  | .audf => (4#4, 8#4, 9#4, 11#4)
  | .sudf => (4#4, 9#4, 9#4, 11#4)
  | .aw j k => (4#4, 10#4, j, k)
  | .sw j k => (4#4, 11#4, j, k)
  | .awc j k => (4#4, 12#4, j, k)
  | .swc j k => (4#4, 13#4, j, k)
  | .cws j k => (5#4, 2#4, j, k)
  | .cwu j k => (5#4, 3#4, j, k)
  | .cbfu => (5#4, 7#4, 9#4, 11#4)
  | .acrl j k => (9#4, 3#4, j, k)
  | .awlni j k => (9#4, 12#4, j, k)
  | .swlni j k => (9#4, 13#4, j, k)
  | .awl j k => (10#4, 14#4, j, k)
  | .swl j k => (10#4, 15#4, j, k)
  | .cbs j k => (12#4, 0#4, j, k)
  | .cbu j k => (12#4, 1#4, j, k)
  | .ab j k => (12#4, 6#4, j, k)
  | .sb j k => (12#4, 7#4, j, k)
  | .abc j k => (12#4, 8#4, j, k)
  | .sbc j k => (12#4, 9#4, j, k)
  | .apdb j k => (12#4, 14#4, j, k)
  | .spdb j k => (12#4, 15#4, j, k)
  | .apdbc j k => (13#4, 0#4, j, k)
  | .spdbc j k => (13#4, 1#4, j, k)
  | .sbl j k => (13#4, 14#4, j, k)
  | .jor j k => (2#4, 12#4, j, k)
  | .djor j k => (2#4, 13#4, j, k)
  | .jpmbn => (3#4, 12#4, 0#4, 0#4)
  | .djpmbn => (3#4, 14#4, 0#4, 0#4)
  | .srb3o sel k => (6#4, 0#4, sel, k)
  | .djibo sel k => (6#4, 2#4, sel, k)
  | .djibz sel k => (6#4, 3#4, sel, k)
  | .ribo jr sel => (6#4, 4#4, 0#1 ++ jr, sel)
  | .dribo jr sel => (6#4, 5#4, 0#1 ++ jr, sel)
  | .ribz jr sel => (6#4, 6#4, 0#1 ++ jr, sel)
  | .dribz jr sel => (6#4, 7#4, 0#1 ++ jr, sel)
  | .jfa => (6#4, 8#4, 0#4, 0#4)
  | .jfal => (6#4, 9#4, 0#4, 0#4)
  | .jibo sel k => (6#4, 10#4, sel, k)
  | .jibz sel k => (6#4, 11#4, sel, k)
  | .jrp disp => (6#4, 12#4, disp.extractLsb' 4 4, disp.extractLsb' 0 4)
  | .jrm disp => (6#4, 13#4, disp.extractLsb' 4 4, disp.extractLsb' 0 4)
  | .djrp disp => (6#4, 14#4, disp.extractLsb' 4 4, disp.extractLsb' 0 4)
  | .djrm disp => (6#4, 15#4, disp.extractLsb' 4 4, disp.extractLsb' 0 4)
  | .jiol hi jr k _ => (7#4, hi, 0#1 ++ jr, k)
  | .jizl hi jr k _ => (8#4, hi, 0#1 ++ jr, k)
  | .djtnz disp => (9#4, 0#4, disp.extractLsb' 4 4, disp.extractLsb' 0 4)
  | .jrpx disp => (11#4, 0#4, disp.extractLsb' 4 4, disp.extractLsb' 0 4)
  | .jrmx disp => (11#4, 1#4, disp.extractLsb' 4 4, disp.extractLsb' 0 4)
  | .jibom sel k => (11#4, 2#4, sel, k)
  | .jibzm sel k => (11#4, 3#4, sel, k)
  | .djibom sel k => (11#4, 4#4, sel, k)
  | .djibzm sel k => (11#4, 5#4, sel, k)
  | .jibol sel _ => (11#4, 6#4, sel, 0#4)
  | .jibzl sel _ => (11#4, 7#4, sel, 0#4)
  | .sibo sel => (11#4, 8#4, sel, 0#4)
  | .sibz sel => (11#4, 9#4, sel, 0#4)
  | .jtnz disp => (11#4, 10#4, disp.extractLsb' 4 4, disp.extractLsb' 0 4)
  | .sru j k => (12#4, 2#4, j, k)
  | .sre j k => (12#4, 3#4, j, k)
  | .srbo sel k => (12#4, 4#4, sel, k)
  | .srbz sel k => (12#4, 5#4, sel, k)
  | .jro hi j k _ => (14#4, hi, j, k)
  | .jrz hi j k _ => (15#4, hi, j, k)
  | .setia j k => (2#4, 14#4, j, k)
  | .setna j => (2#4, 15#4, j, 15#4)
  | .jmpia jr k => (3#4, 2#4, 0#1 ++ jr, k)
  | .jmpib k => (3#4, 3#4, 0#4, k)
  | .jmpic => (3#4, 4#4, 0#4, 0#4)
  | .jmpna jr k => (3#4, 5#4, 0#1 ++ jr, k)
  | .jmpnb k => (3#4, 6#4, 0#4, k)
  | .jmpnc => (3#4, 7#4, 0#4, 0#4)
  | .jmpva => (3#4, 8#4, 0#4, 15#4)
  | .jmpvb => (3#4, 9#4, 0#4, 15#4)
  | .jmpvc => (3#4, 10#4, 0#4, 0#4)
  | .jmpd k => (3#4, 11#4, 0#4, k)
  | .mii en => (5#4, 4#4, en.extractLsb' 4 4, en.extractLsb' 0 4)
  | .min en => (5#4, 5#4, en.extractLsb' 4 4, en.extractLsb' 0 4)
  | .miv en => (5#4, 6#4, en.extractLsb' 4 4, en.extractLsb' 0 4)
  | .tsb j => (9#4, 6#4, j, 0#4)
  | .tsldc j => (9#4, 7#4, j, 0#4)
  | .tsrdc j => (9#4, 8#4, j, 0#4)
  | .tsbc j => (9#4, 9#4, j, 0#4)
  | .setsx k => (9#4, 10#4, 0#4, k)
  | .lts => (9#4, 11#4, 0#4, 0#4)
  | .eaf lit => (1#4, 2#4, lit.extractLsb' 4 4, lit.extractLsb' 0 4)
  | .wpmb => (1#4, 3#4, 0#4, 0#4)
  | .rcv j k => (3#4, 13#4, j, k)
  | .linkm jr k => (6#4, 1#4, 0#1 ++ jr, k)
  | .rti jc kc => (9#4, 1#4, 0#2 ++ jc, kc)
  | .link jr k => (9#4, 2#4, 0#1 ++ jr, k)
  | .sc lit => (9#4, 4#4, lit.extractLsb' 4 4, lit.extractLsb' 0 4)
  | .rc lit => (9#4, 5#4, lit.extractLsb' 4 4, lit.extractLsb' 0 4)
  | .sco => (9#4, 14#4, 0#4, 0#4)
  | .riz => (9#4, 15#4, 0#4, 0#4)
  | .upkl j k => (13#4, 6#4, j, k)
  | .upkr j k => (13#4, 7#4, j, k)

/-- The literal word of a two-word instruction (30 R324). -/
def Instr.literal : Instr → Option Half
  | .mrr _ => none
  | .fr _ => none
  | .f _ => none
  | .lfa _ _ => none
  | .lfal _ _ => none
  | .lfd _ _ => none
  | .fl _ => none
  | .sr _ _ => none
  | .s _ _ => none
  | .sa _ _ => none
  | .sd _ _ => none
  | .sl _ _ => none
  | .tie _ _ => none
  | .tip _ _ => none
  | .toe _ _ => none
  | .top _ _ => none
  | .tii _ _ => none
  | .toi _ _ => none
  | .tw _ _ => none
  | .ltrc _ => none
  | .lb _ => none
  | .lld _ _ => none
  | .lrd _ _ => none
  | .lrh _ l => some l
  | .lrhc _ l => some l
  | .swar _ _ => none
  | .swll _ _ => none
  | .swllc _ _ => none
  | .swlr _ _ => none
  | .swlrc _ _ => none
  | .swcl _ _ => none
  | .tlhlh _ _ => none
  | .tlhrh _ _ => none
  | .trhlh _ _ => none
  | .trhrh _ _ => none
  | .tb _ _ => none
  | .tldl _ _ => none
  | .tldr _ _ => none
  | .trdl _ _ => none
  | .trdr _ _ => none
  | .tflhd _ _ => none
  | .tflhi _ _ => none
  | .tfrhd _ _ => none
  | .tfrhi _ _ => none
  | .tffd => none
  | .tffi => none
  | .tfbd _ _ => none
  | .tfbi _ _ => none
  | .tfbdn _ _ => none
  | .tfb _ _ => none
  | .tfbin _ _ => none
  | .tlhfd _ => none
  | .tlhfi _ => none
  | .trhfd _ => none
  | .trhfi _ => none
  | .tbfin _ => none
  | .tbfd _ => none
  | .tbfi _ => none
  | .tbfdn _ => none
  | .tbf _ => none
  | .baf => none
  | .bof => none
  | .bef => none
  | .baw _ _ => none
  | .bow _ _ => none
  | .bew _ _ => none
  | .biw _ _ => none
  | .bab _ _ => none
  | .bob _ _ => none
  | .beb _ _ => none
  | .bald _ _ => none
  | .bard _ _ => none
  | .bold _ _ => none
  | .bord _ _ => none
  | .beld _ _ => none
  | .berd _ _ => none
  | .bib _ _ => none
  | .af => none
  | .sf => none
  | .cfu => none
  | .apdf => none
  | .spdf => none
  | .audf => none
  | .sudf => none
  | .aw _ _ => none
  | .sw _ _ => none
  | .awc _ _ => none
  | .swc _ _ => none
  | .cws _ _ => none
  | .cwu _ _ => none
  | .cbfu => none
  | .acrl _ _ => none
  | .awlni _ _ => none
  | .swlni _ _ => none
  | .awl _ _ => none
  | .swl _ _ => none
  | .cbs _ _ => none
  | .cbu _ _ => none
  | .ab _ _ => none
  | .sb _ _ => none
  | .abc _ _ => none
  | .sbc _ _ => none
  | .apdb _ _ => none
  | .spdb _ _ => none
  | .apdbc _ _ => none
  | .spdbc _ _ => none
  | .sbl _ _ => none
  | .jor _ _ => none
  | .djor _ _ => none
  | .jpmbn => none
  | .djpmbn => none
  | .srb3o _ _ => none
  | .djibo _ _ => none
  | .djibz _ _ => none
  | .ribo _ _ => none
  | .dribo _ _ => none
  | .ribz _ _ => none
  | .dribz _ _ => none
  | .jfa => none
  | .jfal => none
  | .jibo _ _ => none
  | .jibz _ _ => none
  | .jrp _ => none
  | .jrm _ => none
  | .djrp _ => none
  | .djrm _ => none
  | .jiol _ _ _ l => some l
  | .jizl _ _ _ l => some l
  | .djtnz _ => none
  | .jrpx _ => none
  | .jrmx _ => none
  | .jibom _ _ => none
  | .jibzm _ _ => none
  | .djibom _ _ => none
  | .djibzm _ _ => none
  | .jibol _ l => some l
  | .jibzl _ l => some l
  | .sibo _ => none
  | .sibz _ => none
  | .jtnz _ => none
  | .sru _ _ => none
  | .sre _ _ => none
  | .srbo _ _ => none
  | .srbz _ _ => none
  | .jro _ _ _ l => some l
  | .jrz _ _ _ l => some l
  | .setia _ _ => none
  | .setna _ => none
  | .jmpia _ _ => none
  | .jmpib _ => none
  | .jmpic => none
  | .jmpna _ _ => none
  | .jmpnb _ => none
  | .jmpnc => none
  | .jmpva => none
  | .jmpvb => none
  | .jmpvc => none
  | .jmpd _ => none
  | .mii _ => none
  | .min _ => none
  | .miv _ => none
  | .tsb _ => none
  | .tsldc _ => none
  | .tsrdc _ => none
  | .tsbc _ => none
  | .setsx _ => none
  | .lts => none
  | .eaf _ => none
  | .wpmb => none
  | .rcv _ _ => none
  | .linkm _ _ => none
  | .rti _ _ => none
  | .link _ _ => none
  | .sc _ => none
  | .rc _ => none
  | .sco => none
  | .riz => none
  | .upkl _ _ => none
  | .upkr _ _ => none

/-- The first word of an instruction. -/
def encodeWord (i : Instr) : Half :=
  (encodeDigits i).1 ++ (encodeDigits i).2.1 ++ (encodeDigits i).2.2.1 ++ (encodeDigits i).2.2.2

/-- The encoder: the one or two words of an instruction. -/
def encode (i : Instr) : List Half := encodeWord i :: i.literal.toList

/-- What the decoder answers for the table word `w` of `nbits` bits: bits 16 to 1 are the first word, the next sixteen the
second, and bits the table does not give are 0. -/
def decodeTableWord (nbits w : Nat) : Option Instr :=
  match decode (BitVec.ofNat 16 (w % 2 ^ nbits)) (BitVec.ofNat 16 (w % 2 ^ nbits / 2 ^ 16)) with
  | .ok i => some i
  | .error _ => none

end Sys2Proof
end

