-- ==== Sys2Proof/Machine/State.lean ====
section
/-! DEFINITION. The state of the machine as plain data, the refusals, and the state after reset. -/

namespace Sys2Proof.Machine

/-! ### The CPC (10) -/

/-- What the error check said of a fetched word (20 R209). -/
inductive EccStatus where
  | ok
  | corrected
  | uncorrectable
  deriving DecidableEq, Repr

/-- A word a fetch will deliver, with its status (40 R361). -/
structure Fetched where
  word : Word
  status : EccStatus
  deriving DecidableEq, Repr

/-- A fetch that has been sent and not received (10 R69; 40 R361): `data` is `none` when the ATC aborted it. -/
structure Fetch where
  data : Option Fetched
  age : Nat
  deriving DecidableEq, Repr

/-- The registers of the CPC. -/
structure Cpc where
  /-- The sixteen general registers (R40). -/
  rsu : Vector Word 16
  /-- The jump registers, IRU 0 to 7 (R53). -/
  jr : Vector Half 8
  /-- Restore FIFO, bottom entry, IRU 8 (R54). -/
  eari : Half
  /-- Restore FIFO, middle entry (R54). -/
  iari : Half
  /-- Restore FIFO, top entry (R54). -/
  cri : Half
  /-- The Restore FIFO is being clocked (R54). -/
  fifoRun : Bool
  /-- State Register, IRU 9 (R56). -/
  sr : Half
  /-- I7 to I1 of the Indicator Array, IRU 16 (R58); I8 is the copy of `CA1.BCT`. -/
  ind : BitVec 7
  /-- Virtual Indicators, IRU 17 (R61). -/
  via : Half
  /-- Tally Register, IRU 12 (R62). -/
  tally : Half
  /-- Operand Pointer 1, IRU 24 (R63). -/
  optr1 : Byte
  /-- Operand Pointer 2, IRU 24 (R63). -/
  optr2 : Byte
  /-- Stack Pointer, IRU 26 (R64). -/
  sptr : BitVec 5
  /-- Setup Register 1, IRU 19 (R65). -/
  sur1 : Half
  /-- Setup Register 2, IRU 20 (R65). -/
  sur2 : Half
  /-- Setup Register 3, IRU 10 (R65). -/
  sur3 : Half
  /-- Setup Register 4, IRU 11 (R65). -/
  sur4 : Half
  /-- Setup Register 5, IRU 18 (R65). -/
  sur5 : Byte
  /-- Control Array 1, IRU 27: register bits 16 to 9 (R66). -/
  ca1 : Byte
  /-- MARS6 Write Tags, IRU 28 (R67). -/
  m6wt : Digit
  /-- Write Tag Register (R68). -/
  wtr : Digit
  /-- The outstanding fetch (R69). -/
  fetch : Option Fetch
  deriving DecidableEq, Repr

/-- The instruction of the previous execute slot (70 R768). -/
structure Prev where
  instr : Instr
  /-- The RSU entries it wrote: bit `n` for `RSU[n]`. -/
  wrote : BitVec 16
  /-- The RSU entries whose two low bits it changed. -/
  moved : BitVec 16
  deriving DecidableEq, Repr

/-- The pipeline (10 R46, R47). -/
structure Pipe where
  /-- Control Register, the program counter (R45). -/
  cr : Half
  /-- The word in the interpret stage. -/
  ir : Half
  /-- The ISU address of `ir`. -/
  iar : Half
  /-- The word in the execute stage. -/
  xr : Half
  /-- The ISU address of `xr`. -/
  ear : Half
  /-- The skip counter (R47). -/
  skip : BitVec 2
  /-- `CR_next`: the jump of this cycle (R46). -/
  crNext : Option Half
  /-- The executed instruction moved the Restore FIFO itself (R55). The model's own. -/
  fifoShifted : Bool
  /-- VPBSY as sampled while the word in `xr` was in the interpret stage (22 R274). -/
  vpbsy : Bool
  /-- PMRST was asserted in the previous cycle (70 R760). -/
  pmrstHeld : Bool
  /-- `PREV` (70 R768). -/
  prev : Option Prev
  /-- How many byte cycles a field instruction may take in this step (42 R441; 70 R760). The model's own. -/
  fieldCycles : Nat
  /-- C.C. MATCH of a JMPIB or JMPIC of this cycle, or one due in a held cycle, which I6 takes in the cycle following (46 R637). -/
  lateMatch : Option Bool
  /-- C.C. MATCH that I6 takes at the end of this cycle (46 R637). -/
  dueMatch : Option Bool
  deriving DecidableEq, Repr

/-! ### The ATC (11) -/

/-- An entry of the associative memory with its page descriptor (R138). -/
structure AmEntry where
  /-- Virtual Page Number, aligned with address bits 32 to 11. -/
  vpn : BitVec 22
  /-- Privileged protection bits R, W, E, L. -/
  pcp : Digit
  /-- Non-privileged protection bits R, W, E, L. -/
  pcn : Digit
  /-- Page Frame Number, real address bits 24 to 11. -/
  pfn : BitVec 14
  /-- Changed Page. -/
  cp : Bool
  /-- Register Referenced. -/
  rr : Bool
  /-- Invalid Register. -/
  ir : Bool
  deriving DecidableEq, Repr

/-- The states of the memory sequencer (R141). -/
inductive AtcSeq where
  | idle
  | realPartialStore
  | realFetch
  | realFullStore
  | virtualPartialStore
  | virtualFetch
  | virtualFullStore
  | refresh
  | verPartialStore
  | verFetch
  | verFullStore
  deriving DecidableEq, Repr

/-- The real state that follows a virtual or VER state (R141). -/
def AtcSeq.realHalf : AtcSeq → AtcSeq
  | .virtualPartialStore | .verPartialStore => .realPartialStore
  | .virtualFetch | .verFetch => .realFetch
  | .virtualFullStore | .verFullStore => .realFullStore
  | q => q

/-- A state of a real operation (R141). -/
def AtcSeq.isReal : AtcSeq → Bool
  | .realPartialStore | .realFetch | .realFullStore => true
  | _ => false

/-- A state of a fetch operation, real, virtual or VER (R141). -/
def AtcSeq.isFetch : AtcSeq → Bool
  | .realFetch | .virtualFetch | .verFetch => true
  | _ => false

/-- The registers of the ATC. -/
structure Atc where
  /-- Control Array 2, ERU 40 (R123). -/
  ca2 : Half
  /-- Interrupt/Trap Array, ERU 41 (R125). -/
  ita : Half
  /-- Interrupt Mask Register, ERU 42 (R127). -/
  imr : Half
  /-- Interval Timer/Monitor Register, ERU 43 (R128). -/
  itmr : Word
  /-- Time-Of-Day counter, ERU 44 (R140). -/
  tod : Word
  /-- Address Monitor Register, ERU 45 (R129). -/
  amr : Word
  /-- Bus Interrupt Register, ERU 46 (R130). -/
  bin : Word
  /-- `BIN` holds an unread message (R130). -/
  binFull : Bool
  /-- A `BIN` load waits for the write of `ITA` (R142). -/
  binPending : Bool
  /-- `ITA` has been read and not yet written (R142). -/
  itaRead : Bool
  /-- Syndrome Register, ERU 49 (R131). -/
  syn : BitVec 7
  /-- An error was found in the last word read (R131). -/
  synEr : Bool
  /-- Stores send `syn` as check bits (R131). -/
  synLock : Bool
  /-- Page Size Register, ERU 47 (R136). -/
  psr : BitVec 3
  /-- Purge Mask Register bits 32 to 11, ERU 53 (R137). -/
  pmr : BitVec 22
  /-- Virtual Address Register Buffer, ERU 54 (R133). -/
  varb : Word
  /-- Real Address Register, ERU 55 (R134). -/
  rar : Word
  /-- Descriptor Data Register, ERU 50 (R135). -/
  ddr : Word
  /-- The associative memory: entry 1 is index 0 (R138). -/
  am : Vector AmEntry 16
  /-- A refresh is due (R142). -/
  refReq : Bool
  /-- The REQS level of PS, PSM and TVA, in the cycle of the command (R142; 22 R277 (b)). -/
  reqsOnce : Bool
  /-- `ATC_BUSY2`: the cycle after PS, PSM or TVA, which REQS keeps for the CPC (R142). -/
  busy2 : Bool
  /-- The REQS level of an unserved uncorrectable error (22 R277 (a)). -/
  reqs : Bool
  /-- The hazard of the sixteenth RR bit (70 R781). -/
  rrResetting : Bool
  /-- The memory sequencer (R141). -/
  seq : AtcSeq
  /-- The virtual operation of this cycle was not stopped: its real state comes next (R141). The model's own. -/
  seqGoesOn : Bool
  /-- The current real operation is the CPC's (R142). -/
  cpcInitiated : Bool
  /-- Memory Data register (R132). -/
  md : Word
  /-- Processor Data register (R132). -/
  pd : Word
  /-- The MEMERR output (22 R293). -/
  memErr : Bool
  /-- The MDEE output (22 R293). -/
  mdee : Bool
  /-- `TOD` or `ITMR` was written in this cycle (R140), or `ITA.4` was cleared (60 R704). The model's own. -/
  todHold : Bool
  deriving DecidableEq, Repr

/-! ### Memory (20) -/

/-- Main memory (20 R181): the data bytes by byte address, an unlisted byte being 0, and the error patterns of the words whose
check bits are not those of their data, by word address, an unlisted word having none. -/
structure Memory where
  bytes : List Host.Cell
  err : List (Nat × BitVec 7)
  deriving DecidableEq, Repr

/-! ### Platform, breakpoint hardware, inputs -/

/-- `PD_LAYOUT` (92 D16): the spec bit number of each one-bit field of a page descriptor word; the Page Frame Number is in bits 24
to 11 in every layout (11 R139). -/
structure PdLayout where
  /-- Read, privileged set. -/
  pcpR : Nat
  /-- Write, privileged set. -/
  pcpW : Nat
  /-- Execute, privileged set. -/
  pcpE : Nat
  /-- Linkage, privileged set. -/
  pcpL : Nat
  /-- Read, non-privileged set. -/
  pcnR : Nat
  /-- Write, non-privileged set. -/
  pcnW : Nat
  /-- Execute, non-privileged set. -/
  pcnE : Nat
  /-- Linkage, non-privileged set. -/
  pcnL : Nat
  /-- Invalid Register. -/
  ir : Nat
  /-- Changed Page. -/
  cp : Nat
  deriving DecidableEq, Repr

/-- When a TW into MARS6 clears its write tags: two rules differ, any may hold (log 23). -/
inductive TwTags where
  /-- Never: a MARS6 store alone clears them (10 R67; 92 D10). -/
  | never
  /-- Unless it moves a register to itself, which has no effect (41 R398; 47 R670). -/
  | moved
  /-- Always: the clearing of 41 R398 without an exception. -/
  | always
  deriving DecidableEq, Repr

/-- The platform parameters, fixed for a run (70 R765). -/
structure Platform where
  /-- `ISU_CONTENTS` (20 R186): an unlisted address holds 0. -/
  isu : List (Nat × Half)
  /-- `MEM_WORDS` in banks of 65536 words, 1 to 64 (92 D1). -/
  memBanks : Nat
  /-- `ATC_PRESENT` (92 D3). -/
  atcPresent : Bool
  /-- `PD_LAYOUT` (92 D16). -/
  pdLayout : PdLayout
  /-- `FETCH_WINDOW` (92 D43). -/
  fetchWindow : Nat
  /-- `BKPT_HW` (92 D48). -/
  bkptHw : Bool
  /-- A breakpoint is tracked to the execute stage, not the interpret stage (60 R730). -/
  bkptAtExecute : Bool
  /-- Port number, less 64, of the Maintenance Control and Status Registers (60 R730). -/
  mcrPort : BitVec 6
  /-- Spec bit number of the Breakpoint Enable bit in them. -/
  mcrEnableBit : Nat
  /-- Spec bit number of the Breakpoint trap bit in them. -/
  mcrTrapBit : Nat
  /-- `IBM_RX_OPTR2_SRC` is `SUR1` (46 R635). -/
  rxOptr2FromSur1 : Bool
  /-- The CPC asserts PMBUS32 with every real address whose bits 24 to 10 are all ones (40 R362, R373; 22 R292), and not only with
  one whose bit 32 is 1 too (20 R187): two rules differ, either may hold (log 12). -/
  allOnesMarked : Bool
  /-- MRR is virtual whatever AT is (40 R362, R366), and not real with AT = 0 (20 R180; 21 R220; 22 R283): either may hold
  (log 51). -/
  mrrIgnoresAt : Bool
  /-- A TVA that is not permitted posts `ITA.11` (21 R252), and does not leave it (60 R711): either may hold (log 22). -/
  tvaPosts : Bool
  /-- A TOE of the CPC to a full `BIN` is dropped like every write message (11 R130), and not taken (22 R279): either may hold
  (log 21). -/
  binGuardsCpc : Bool
  /-- PMRST clears every RR bit (21 R232), and does not keep them with the rest of the entries (11 R143; 70 R762): either may hold
  (log 47). -/
  resetClearsRr : Bool
  /-- Any trap bit of `ITA` holds refresh off (11 R141), and not bit 14 alone (20 R212): either may hold (log 15). -/
  trapsHoldRefresh : Bool
  /-- The read of a partial store loads a locked Syndrome Register too (20 R203, R209), and does not leave it as the last TOE or fetch
  left it (11 R131): either may hold (log 13). -/
  lockedReadLoads : Bool
  /-- JIBO, JIBZ, DJIBO and DJIBZ go to the address in the right half of `RSU[K]` (30 R328), and not `K` words ahead (45 R585, R586,
  R593, R594): either may hold (log 20). -/
  pairJumpsByRsu : Bool
  /-- Every SETNA that is not refused resets I6 as it begins (10 R59), and not one of the RI format alone, by its match (46 R651):
  either may hold (log 50). -/
  setnaResets : Bool
  /-- When a TW into MARS6 clears its write tags (log 23). -/
  twTags : TwTags
  deriving DecidableEq, Repr

/-- The breakpoint hardware (60 R730). -/
structure Breakpoint where
  /-- The Breakpoint RAM: an unlisted address has no breakpoint. -/
  ram : List (Nat × Bool)
  enable : Bool
  trap : Bool
  /-- The address now in `CR` was presented with J05 set. -/
  crPresented : Bool
  /-- J06, if the instruction of this cycle is a DJOR or RTI that presents its target with J05 set. -/
  presents : Option Bool
  /-- The word in `IR` was hit when it was fetched. -/
  irHit : Bool
  deriving DecidableEq, Repr

/-- What another bus device can send: real messages and the Processor Interrupt message (22 R278, R296), and external register messages
(11 R122; 22 R276). -/
inductive BusMessage where
  | realFetch (addr : Word)
  | realStore (addr : Word) (tags : Digit) (data : Word)
  | binWrite (data : Word)
  /-- A transfer out: the register `n` is written. -/
  | eruWrite (n : BitVec 7) (data : Word)
  /-- A transfer in: the register `n` is read; the word goes to the device. -/
  | eruRead (n : BitVec 7)
  deriving DecidableEq, Repr

/-- The inputs of one cycle (00 R9; 22 R271), `true` meaning asserted. -/
structure Input where
  pmrst : Bool
  spint : Bool
  privX0 : Bool
  privX1 : Bool
  eaci : Bool
  vpbsy : Bool
  inh : Bool
  /-- BAV is negated: the bus is not free for the CPC. -/
  bavNegated : Bool
  /-- DIE has not come yet. -/
  dieLate : Bool
  extInt : Bool
  extTrap : Bool
  /-- TODOSC periods since the last cycle (92 D17). -/
  todTicks : Nat
  /-- The ATC finds the bus free for a refresh. -/
  refresh : Bool
  /-- The messages other devices sent since the last cycle. -/
  messages : List BusMessage
  deriving DecidableEq, Repr

/-- A cycle in which nothing is asserted. -/
def Input.quiet : Input where
  pmrst := false
  spint := false
  privX0 := false
  privX1 := false
  eaci := false
  vpbsy := false
  inh := false
  bavNegated := false
  dieLate := false
  extInt := false
  extTrap := false
  todTicks := 0
  refresh := false
  messages := []

/-- The whole machine. -/
structure State where
  cpc : Cpc
  pipe : Pipe
  atc : Atc
  mem : Memory
  plat : Platform
  bkpt : Breakpoint
  /-- The inputs of the cycles to come; when none is left every input is quiet. -/
  inputs : List Input
  /-- The inputs of the current cycle. -/
  now : Input
  /-- How many free values have been drawn. The model's own. -/
  fresh : Nat
  deriving DecidableEq, Repr

/-! ### Stops -/

/-- Faults: none. The machine has no trap that stops it (60 R700); traps and interrupts are next states. -/
inductive Fault where
  deriving DecidableEq, Repr

/-- Refusals: what 93 takes out of the spec. All are safe: nothing is proved of a machine past one. -/
inductive Refusal where
  /-- Raised by an arm of `exec` without a meaning. Safe. -/
  | notModelled (mnemonic : String)
  /-- Raised by the step: the word is not an instruction (93 U41). Safe. -/
  | notAnInstruction (why : DecodeError)
  /-- Raised by TII and TOI: the register is not implemented (10 R51). Safe. -/
  | unusedIru (n : BitVec 5)
  /-- Raised by the step: `CA1.NUM` is 1 (93 U3). Safe. -/
  | nonUserMode
  /-- Raised by RTI: the skip counter would be loaded with 3 (93 U4). Safe. -/
  | skipCountThree
  /-- Raised by a virtual operation: `CA2` bits 2 and 4 are both 1 (93 U10). Safe. -/
  | monitorConflict
  /-- Raised by an operation that uses the page size, of the CPC or of a device: `PSR` is no page size (93 U12). Safe. -/
  | pageSizeInvalid
  /-- Raised by a search, also that of a device's TVA: two valid entries match (93 U13). Safe. -/
  | multipleHits
  /-- Raised by a virtual operation: no match, and No Match is masked (93 U14). Safe. -/
  | maskedNoMatch
  /-- Raised by JMPIA, JMPNA, SETIA and SETNA: the MARS7 byte pointer is odd (93 U33). Safe. -/
  | oddSetupPointer
  /-- Raised by SETNA: the NVM format is RR1 or RR2 (93 U35). Safe. -/
  | setnaFormat
  /-- Raised by a halfword field instruction: the tally is 1 (93 U39). Safe. -/
  | halfwordTallyOne
  /-- Raised by a halfword field instruction: the byte pointer is odd (93 U40). Safe. -/
  | oddFieldPointer
  /-- Raised by a store or MRR: the write tags are 0000 (93 U38). Safe. -/
  | noWriteTags
  /-- Raised by a virtual message: there is no ATC (22 R299). Safe. -/
  | virtualWithoutAtc
  /-- Raised by the step: the previous instruction changed a byte pointer or address register this one uses (93 U42). Safe. -/
  | pointerHazard
  /-- Raised by the step: the previous instruction loaded the tally this one reads (93 U42). Safe. -/
  | tallyHazard
  /-- Raised by the step: a bus instruction directly after PS, PSM or TVA (93 U43). Safe. -/
  | atcBusyHazard
  /-- Raised by the step: an operand or stack pointer used directly after its load (93 U44). Safe. -/
  | operandPointerHazard
  /-- Raised by the step: a late result read by the next instruction (93 U45). Safe. -/
  | lateResultHazard
  /-- Raised by the ATC: WSPF, ESPF, TVA, of the CPC or of a device, or a translation after the sixteenth RR bit (93 U46). Safe. -/
  | referencedHazard
  /-- Raised by the step: I6 used directly after JMPIB or JMPIC (93 U34). Safe. -/
  | matchIndicatorHazard
  deriving DecidableEq, Repr

/-- What an instruction or a step answers. -/
abbrev Result := Host.Outcome State Fault Refusal

/-! ### Reset (10 R90; 11 R143; 70 R760, R762) -/

/-- The CPC after reset. `CA1`: TI = 1, the others 0 (R90); the registers without a reset value are 0 (log 1). -/
def Cpc.reset : Cpc where
  rsu := Vector.replicate 16 0
  jr := Vector.replicate 8 0
  eari := 0
  iari := 0
  cri := 0
  fifoRun := false
  sr := 0
  ind := 0
  via := 0
  tally := 0
  optr1 := 0
  optr2 := 0
  sptr := 0
  sur1 := 0
  sur2 := 0
  sur3 := 0
  sur4 := 0
  sur5 := 0
  ca1 := 0x04
  m6wt := 0
  wtr := 0
  fetch := none

/-- The pipeline after reset: `CR` = 0, two slots to void (70 R760). -/
def Pipe.reset : Pipe where
  cr := 0
  ir := 0
  iar := 0
  xr := 0
  ear := 0
  skip := 2
  crNext := none
  fifoShifted := false
  vpbsy := false
  pmrstHeld := true
  prev := none
  fieldCycles := 4
  lateMatch := none
  dueMatch := none

/-- An invalid entry of the associative memory (log 2). -/
def AmEntry.empty : AmEntry where
  vpn := 0
  pcp := 0
  pcn := 0
  pfn := 0
  cp := false
  rr := false
  ir := true

/-- The ATC after reset: `ITA.16` = 1 and the hidden flags 0 (R143); the registers without a reset value as log 2 says. -/
def Atc.reset : Atc where
  ca2 := 0
  ita := 0x8000
  imr := 0
  itmr := 0
  tod := 0
  amr := 0
  bin := 0
  binFull := false
  binPending := false
  itaRead := false
  syn := 0
  synEr := false
  synLock := false
  psr := 0b010
  pmr := 0
  varb := 0
  rar := 0
  ddr := 0
  am := Vector.replicate 16 AmEntry.empty
  refReq := false
  reqsOnce := false
  busy2 := false
  reqs := false
  rrResetting := false
  seq := .idle
  seqGoesOn := false
  cpcInitiated := false
  md := 0
  pd := 0
  memErr := false
  mdee := false
  todHold := false

/-- The layout that 11 R139 gives as the default. -/
def PdLayout.default : PdLayout where
  pcpR := 32
  pcpW := 31
  pcpE := 30
  pcpL := 29
  pcnR := 10
  pcnW := 9
  pcnE := 8
  pcnL := 7
  ir := 2
  cp := 1

/-- The default platform (92 section 1; log 6): 16M bytes, an ATC, no breakpoint hardware, no ISU word listed; where
two rules differ, as their logs say (logs 12, 13, 15, 20, 21, 22, 23, 47, 50, 51). -/
def Platform.default : Platform where
  isu := []
  memBanks := 64
  atcPresent := true
  pdLayout := PdLayout.default
  fetchWindow := 1
  bkptHw := false
  bkptAtExecute := false
  mcrPort := 0
  mcrEnableBit := 1
  mcrTrapBit := 2
  rxOptr2FromSur1 := false
  allOnesMarked := true
  mrrIgnoresAt := true
  tvaPosts := true
  binGuardsCpc := true
  resetClearsRr := true
  trapsHoldRefresh := false
  lockedReadLoads := true
  pairJumpsByRsu := false
  setnaResets := false
  twTags := .moved

/-- The breakpoint hardware after reset (60 R730; log 6). -/
def Breakpoint.reset : Breakpoint where
  ram := []
  enable := false
  trap := false
  crPresented := false
  presents := none
  irHit := false

/-- The machine right after reset, PMRST about to be negated (70 R765). -/
def State.reset : State where
  cpc := Cpc.reset
  pipe := Pipe.reset
  atc := Atc.reset
  mem := { bytes := [], err := [] }
  plat := Platform.default
  bkpt := Breakpoint.reset
  inputs := []
  now := Input.quiet
  fresh := 0

end Sys2Proof.Machine
end

