-- ==== Sys2Proof/Machine/Memory.lean ====
section
/-! DEFINITION. Sparse tables in canonical form, main memory as bytes (20 R181, R182), the check bits (R208) and the error check
(R209). -/

namespace Sys2Proof.Machine

/-! ### Sparse tables: addresses strictly rising, no entry equal to the default -/

/-- What a table holds at `a`: its entry, or the default `d`. -/
def Table.get {α : Type} (d : α) (a : Nat) : List (Nat × α) → α
  | [] => d
  | (b, x) :: t => if a = b then x else Table.get d a t

/-- The entry of `a` with value `v` in front of a table of higher addresses: none if `v` is the default. -/
def Table.put {α : Type} [DecidableEq α] (d : α) (a : Nat) (v : α) (t : List (Nat × α)) : List (Nat × α) :=
  if v = d then t else (a, v) :: t

/-- The table with `v` at `a`. -/
def Table.set {α : Type} [DecidableEq α] (d : α) (a : Nat) (v : α) : List (Nat × α) → List (Nat × α)
  | [] => Table.put d a v []
  | (b, x) :: t =>
    if a < b then Table.put d a v ((b, x) :: t)
    else if a = b then Table.put d a v t
    else (b, x) :: Table.set d a v t

/-- Every address is at least `lo`, addresses rise strictly, and no value is the default. -/
def Table.canonicalFrom {α : Type} [DecidableEq α] (d : α) (lo : Nat) : List (Nat × α) → Bool
  | [] => true
  | (b, x) :: t => decide (lo ≤ b) && decide (x ≠ d) && Table.canonicalFrom d (b + 1) t

/-- The canonical form of a table. -/
def Table.canonical {α : Type} [DecidableEq α] (d : α) (t : List (Nat × α)) : Bool := Table.canonicalFrom d 0 t

/-! ### Main memory -/

/-- What a byte that nothing has written reads as (20 R214 leaves it open; log 3). -/
def Memory.unwritten : Byte := 0

/-- The canonical form of memory. -/
def Memory.wf (m : Memory) : Bool := Table.canonical Memory.unwritten m.bytes && Table.canonical 0#7 m.err

/-- The byte at byte address `a`. -/
def Memory.byte (m : Memory) (a : Nat) : Byte := Table.get Memory.unwritten a m.bytes

/-- Memory with the byte `v` at byte address `a`. -/
def Memory.setByte (m : Memory) (a : Nat) (v : Byte) : Memory := { m with bytes := Table.set Memory.unwritten a v m.bytes }

/-- The word at word address `wa`: byte 0 is the most significant and has the lowest address (20 R182). -/
def Memory.word (m : Memory) (wa : Nat) : Word :=
  m.byte (4 * wa) ++ m.byte (4 * wa + 1) ++ m.byte (4 * wa + 2) ++ m.byte (4 * wa + 3)

/-- Memory with the word `d` at word address `wa`. -/
def Memory.setWord (m : Memory) (wa : Nat) (d : Word) : Memory :=
  (((m.setByte (4 * wa) (d.extractLsb' 24 8)).setByte (4 * wa + 1) (d.extractLsb' 16 8)).setByte
    (4 * wa + 2) (d.extractLsb' 8 8)).setByte (4 * wa + 3) (d.extractLsb' 0 8)

/-- How the check bits of word `wa` differ from those of its data. -/
def Memory.errAt (m : Memory) (wa : Nat) : BitVec 7 := Table.get 0#7 wa m.err

/-- Memory with the error pattern `e` at word `wa`. -/
def Memory.setErr (m : Memory) (wa : Nat) (e : BitVec 7) : Memory := { m with err := Table.set 0#7 wa e m.err }

/-! ### Error correction -/

/-- The sum of the code words of the data bits that are 1, the list starting with the code of Lean bit `n`. -/
def codeSum (d : Word) : Nat → List (BitVec 7) → BitVec 7
  | _, [] => 0#7
  | n, c :: cs => (if d.getLsbD n then c else 0#7) ^^^ codeSum d (n + 1) cs

/-- The seven check bits of a word: bit `i` is 1 when the data bits of its set have even parity (20 R208). -/
def checkBits (d : Word) : BitVec 7 := ~~~ codeSum d 0 Config.eccCode

/-- How many bits of a syndrome are 1. -/
def ones7 (e : BitVec 7) : Nat := (List.range 7).countP fun i => e.getLsbD i

/-- The Lean number of the data bit whose code is `e`, the list starting with the code of bit `n`. -/
def codedBit (e : BitVec 7) : Nat → List (BitVec 7) → Option Nat
  | _, [] => none
  | n, c :: cs => if c = e then some n else codedBit e (n + 1) cs

/-- What the error check makes of the data `d` when the failing checks are `e` (20 R209). -/
def eccDecode (d : Word) (e : BitVec 7) : Word × EccStatus :=
  if ones7 e = 0 then (d, .ok)
  else if ones7 e = 1 then (d, .corrected)
  else if ones7 e = 3 then
    match codedBit e 0 Config.eccCode with
    | some n => (d ^^^ (1#32 <<< n), .corrected)
    | none => (d, .uncorrectable)
  else (d, .uncorrectable)

/-- Bytes of `new` where the tag is 1, of `old` elsewhere; tag bit 4 is byte 0 (20 R203). -/
def mergeBytes (tags : Digit) (old new : Word) : Word :=
  (if bitAt tags 4 then new.extractLsb' 24 8 else old.extractLsb' 24 8) ++
  (if bitAt tags 3 then new.extractLsb' 16 8 else old.extractLsb' 16 8) ++
  (if bitAt tags 2 then new.extractLsb' 8 8 else old.extractLsb' 8 8) ++
  (if bitAt tags 1 then new.extractLsb' 0 8 else old.extractLsb' 0 8)

end Sys2Proof.Machine
end

