-- ==== Sys2Proof/Machine/Ops.lean ====
section
/-! DEFINITION. The named operations over the registers of the CPC: registers, indicators, control bits, jumps, the Restore FIFO,
free values, the internal registers (10 R52), the pins, and trap and interrupt entry (60 R722) with the return beside it. -/

namespace Sys2Proof.Machine

/-! ### Registers -/

/-- `RSU[k]` (10 R40). -/
def State.rsu (s : State) (k : RsuNum) : Word := s.cpc.rsu[k.toNat]'k.isLt

/-- `RSU[k] <- v`. -/
def State.setRsu (s : State) (k : RsuNum) (v : Word) : State :=
  { s with cpc := { s.cpc with rsu := s.cpc.rsu.set k.toNat v k.isLt } }

/-- `JR[j]` (10 R53). -/
def State.jr (s : State) (j : JrNum) : Half := s.cpc.jr[j.toNat]'j.isLt

/-- `JR[j] <- v`. -/
def State.setJr (s : State) (j : JrNum) (v : Half) : State :=
  { s with cpc := { s.cpc with jr := s.cpc.jr.set j.toNat v j.isLt } }

/-- The even member of the pair that `k` names, `RKE` (10 R41). -/
def evenOf (k : RsuNum) : RsuNum := k &&& 0xE#4

/-- The odd member of the pair that `k` names, `RKO` (10 R41). -/
def oddOf (k : RsuNum) : RsuNum := k ||| 1#4

/-! ### Indicators (10 R58) and control bits (10 R66) -/

/-- Bit `n` (9 to 16) of Control Array 1. -/
def State.ca1At (s : State) (n : Nat) : Bool := bitAt s.cpc.ca1 (n - 8)

/-- Control Array 1 replaced. -/
def State.setCa1 (s : State) (v : Byte) : State := { s with cpc := { s.cpc with ca1 := v } }

/-- Bit `n` (9 to 16) of Control Array 1 replaced. -/
def State.setCa1At (s : State) (n : Nat) (b : Bool) : State := s.setCa1 (putBit s.cpc.ca1 (n - 8) b)

/-- The Indicator Array I8 to I1: I8 is the copy of `CA1.BCT`. -/
def State.indicators (s : State) : Byte := bit1 (s.ca1At 9) ++ s.cpc.ind

/-- Indicator `n`, 1 to 8. -/
def State.indAt (s : State) (n : Nat) : Bool := bitAt s.indicators n

/-- I7 to I1 replaced. -/
def State.setInd (s : State) (v : BitVec 7) : State := { s with cpc := { s.cpc with ind := v } }

/-- Indicator `n` (1 to 7) replaced. -/
def State.setIndAt (s : State) (n : Nat) (b : Bool) : State := s.setInd (putBit s.cpc.ind n b)

/-- Tally replaced. -/
def State.setTally (s : State) (v : Half) : State := { s with cpc := { s.cpc with tally := v } }

/-- State Register replaced. -/
def State.setSr (s : State) (v : Half) : State := { s with cpc := { s.cpc with sr := v } }

/-- Virtual Indicators replaced. -/
def State.setVia (s : State) (v : Half) : State := { s with cpc := { s.cpc with via := v } }

/-- MARS6 Write Tags replaced. -/
def State.setM6wt (s : State) (v : Digit) : State := { s with cpc := { s.cpc with m6wt := v } }

/-! ### Free values (93; log 8) -/

/-- The next free word, and the state after it was drawn. -/
def State.drawWord (s : State) : Word × State := (Config.freeWord s.fresh, { s with fresh := s.fresh + 1 })

/-- The next free halfword. -/
def State.drawHalf (s : State) : Half × State := (Config.freeHalf s.fresh, { s with fresh := s.fresh + 1 })

/-- The next free byte. -/
def State.drawByte (s : State) : Byte × State := (Config.freeByte s.fresh, { s with fresh := s.fresh + 1 })

/-- The next free bit. -/
def State.drawBit (s : State) : Bool × State := (Config.freeBit s.fresh, { s with fresh := s.fresh + 1 })

/-! ### The fetched word on the bus (40 R361) -/

/-- The word of the CPC's outstanding fetch, in a cycle in which it is on the bus: DIE has come for it. -/
def State.wordOnBus (s : State) : Option Fetched :=
  match s.cpc.fetch with
  | some { data := some w, age := _ } => if s.now.dieLate then none else some w
  | _ => none

/-- The low half of what is on the bus at X1: of the fetched word, or free when nothing of the CPC's is there (45 R582, R583;
log 40). -/
def State.busHalf (s : State) : Half × State :=
  match s.wordOnBus with
  | some w => (w.word.extractLsb' 0 16, s)
  | none => s.drawHalf

/-! ### Jumps (45 R571, R573) -/

/-- The address of the executing instruction, the Control Store Address. -/
def State.csa (s : State) : Half := s.pipe.ear

/-- `void(n)`: the next `n` execution cycles are voided (10 R47). -/
def State.void (s : State) (n : BitVec 2) : State := { s with pipe := { s.pipe with skip := n } }

/-- A delayed jump: the two words behind it still execute. -/
def State.jumpDelayed (s : State) (t : Half) : State := { s with pipe := { s.pipe with crNext := some t } }

/-- An immediate jump: the two words behind it are voided. -/
def State.jumpImmediate (s : State) (t : Half) : State := (s.jumpDelayed t).void 2

/-- The address `CR` takes at the end of the cycle (10 R46). -/
def State.nextCr (s : State) : Half := s.pipe.crNext.getD (s.pipe.cr + 1)

/-- The ISU word at `a` (20 R186). -/
def State.isuAt (s : State) (a : Half) : Half := Table.get 0#16 a.toNat s.plat.isu

/-! ### The Restore FIFO (10 R54, R55) -/

/-- The entries of the Restore FIFO replaced, bottom entry first. -/
def State.setFifo (s : State) (e i c : Half) : State := { s with cpc := { s.cpc with eari := e, iari := i, cri := c } }

/-- The executing instruction has moved the FIFO: it is not clocked in this cycle (R55). -/
def State.fifoMoved (s : State) : State := { s with pipe := { s.pipe with fifoShifted := true } }

/-- Whether the FIFO is clocked. -/
def State.setFifoRun (s : State) (b : Bool) : State := { s with cpc := { s.cpc with fifoRun := b } }

/-- The move of a Transfer In: the bottom entry goes to the top (R55). -/
def State.fifoRotate (s : State) : State := (s.setFifo s.cpc.iari s.cpc.cri s.cpc.eari).fifoMoved

/-- The move of a Transfer Out: `v` enters at the top (R55). -/
def State.fifoPush (s : State) (v : Half) : State := (s.setFifo s.cpc.iari s.cpc.cri v).fifoMoved

/-! ### Internal registers (10 R51, R52) -/

/-- `d` with its right halfword replaced. -/
def withRight (d : Word) (h : Half) : Word := d.extractLsb' 16 16 ++ h

/-- `d` with its left halfword replaced. -/
def withLeft (d : Word) (h : Half) : Word := h ++ d.extractLsb' 0 16

/-- The left halfword. -/
def leftHalf (d : Word) : Half := d.extractLsb' 16 16

/-- The right halfword. -/
def rightHalf (d : Word) : Half := d.extractLsb' 0 16

/-- `IRUread(n)`: what TII gives its destination, whose old value is `d`; `none` for a register that is not there (R51). -/
def State.iruRead (s : State) (n : BitVec 5) (d : Word) : Option Word :=
  match n.toNat with
  | 8 => some (withRight d s.cpc.eari)
  | 9 => some (withRight d s.cpc.sr)
  | 10 => some (withRight d s.cpc.sur3)
  | 11 => some (withRight d s.cpc.sur4)
  | 12 => some (withRight d s.cpc.tally)
  | 16 => some (withLeft d (0#8 ++ s.indicators))
  | 17 => some (withLeft d s.cpc.via)
  | 18 => some (withLeft d (0#8 ++ s.cpc.sur5))
  | 19 => some (withLeft d s.cpc.sur1)
  | 20 => some (withLeft d s.cpc.sur2)
  | 24 => some (withLeft d (s.cpc.optr1 ++ s.cpc.optr2))
  | 26 => some (withLeft d (0#11 ++ s.cpc.sptr))
  | 27 => some (withLeft d (s.cpc.ca1 ++ 0#8))
  | 28 => some (withLeft d (0#12 ++ s.cpc.m6wt))
  | m => if m < 8 then some (withRight d (s.jr (n.extractLsb' 0 3))) else none

/-- `IRUwrite(n, v)`: what TOI does with its source `v`; `none` for a register that is not there (R51). -/
def State.iruWrite (s : State) (n : BitVec 5) (v : Word) : Option State :=
  match n.toNat with
  | 8 => some (s.fifoPush (rightHalf v))
  | 9 => some (s.setSr (putBit (rightHalf v) 6 false))
  | 10 => some { s with cpc := { s.cpc with sur3 := rightHalf v } }
  | 11 => some { s with cpc := { s.cpc with sur4 := rightHalf v } }
  | 12 => some (s.setTally (rightHalf v))
  | 16 => some (s.setInd (s.cpc.ind.extractLsb' 6 1 ++ v.extractLsb' 16 6))
  | 17 => some (s.setVia (leftHalf v))
  | 18 => some { s with cpc := { s.cpc with sur5 := v.extractLsb' 16 8 } }
  | 19 => some { s with cpc := { s.cpc with sur1 := leftHalf v } }
  | 20 => some { s with cpc := { s.cpc with sur2 := leftHalf v } }
  | 24 => some { s with cpc := { s.cpc with optr1 := v.extractLsb' 24 8, optr2 := v.extractLsb' 16 8 } }
  | 26 => some { s with cpc := { s.cpc with sptr := v.extractLsb' 16 5 } }
  | 27 => some (s.setCa1 (v.extractLsb' 24 8))
  | 28 => some { s with cpc := { s.cpc with m6wt := v.extractLsb' 16 4 } }
  | m => if m < 8 then some (s.setJr (n.extractLsb' 0 3) (rightHalf v)) else none

/-! ### The TRAP and INT wires (60 R720, R721) -/

/-- `TRAP_PIN`: a trap bit of `ITA`, the breakpoint hardware, or another driver. -/
def State.trapPin (s : State) : Bool :=
  (s.plat.atcPresent && (bitAt s.atc.ita 13 || bitAt s.atc.ita 14 || bitAt s.atc.ita 16)) ||
    (s.plat.bkptHw && s.bkpt.trap) || s.now.extTrap

/-- The ATC holds its interrupt off: a fetch whose data is still to come, or an aborted fetch in the first slot after it. -/
def State.intHeldOff (s : State) : Bool :=
  match s.cpc.fetch with
  | none => false
  | some f => f.data.isSome || f.age == 0

/-- An interrupt bit of `ITA` is 1, bit 10 counting only while `CA2.10` is 0. -/
def State.intPosted (s : State) : Bool :=
  (s.atc.ita.extractLsb' 3 6 != 0#6) || (bitAt s.atc.ita 10 && !bitAt s.atc.ca2 10) || bitAt s.atc.ita 11 || bitAt s.atc.ita 12

/-- `INT_PIN`. -/
def State.intPin (s : State) : Bool := s.now.extInt || (s.plat.atcPresent && !s.intHeldOff && s.intPosted)

/-- Instructions during which no trap and no interrupt is taken (60 R723). -/
def interruptible : Instr → Bool
  | .mrr _ | .fr _ | .f _ | .lfa _ _ | .lfal _ _ | .lfd _ _ | .fl _ | .tie _ _ => false
  | _ => true

/-- The two ways out of the instruction flow. -/
inductive Entry where
  | trap
  | interrupt
  deriving DecidableEq, Repr

/-- What the wires and the control bits call for: a trap before an interrupt (60 R720, R721, R724). -/
def State.wanted (s : State) : Option Entry :=
  if s.trapPin && !s.ca1At 11 then some .trap
  else if s.intPin && !s.ca1At 11 && s.ca1At 10 then some .interrupt
  else none

/-! ### The end of a cycle -/

/-- The word of the fetch stage has a breakpoint, breakpoints being enabled (60 R730). The model's choice (log 62): a TOP that writes the
enable bit counts for the word fetched in its cycle. -/
def State.bkptHit (s : State) : Bool :=
  s.plat.bkptHw && s.bkpt.enable && Table.get false s.pipe.cr.toNat s.bkpt.ram && !s.bkpt.crPresented

/-- The breakpoint hardware at the end of a cycle after which the address `t` is fetched: the hits move with the words, the tracked
stage raises the trap, and a presentation of `t` writes its breakpoint, which this cycle's hit has not seen (60 R730; 45 R581). The
model's choice (log 48): a hit in the cycle of a TOP that clears the trap bit wins. -/
def State.bkptAdvance (s : State) (t : Half) : Breakpoint :=
  { s.bkpt with
    ram := match s.bkpt.presents with
      | some j06 => Table.set false t.toNat j06 s.bkpt.ram
      | none => s.bkpt.ram
    trap := s.bkpt.trap || (if s.plat.bkptAtExecute then s.bkpt.irHit else s.bkptHit)
    irHit := s.bkptHit
    crPresented := s.bkpt.presents.isSome
    presents := none }

/-- The pipeline moves on one stage and `CR` becomes `t` (10 R46). -/
def State.shiftPipe (s : State) (t : Half) : State :=
  { s with
    bkpt := s.bkptAdvance t
    pipe := { s.pipe with
      xr := s.pipe.ir
      ear := s.pipe.iar
      ir := s.isuAt s.pipe.cr
      iar := s.pipe.cr
      cr := t
      crNext := none
      fifoShifted := false
      vpbsy := s.now.vpbsy } }

/-- The Restore FIFO takes the next address (10 R54), unless the instruction moved it itself (R55). -/
def State.fifoClock (s : State) : State :=
  if s.cpc.fifoRun && !s.pipe.fifoShifted then s.setFifo s.cpc.iari s.cpc.cri s.nextCr else s

/-- The ordinary end of a cycle (10 R46, R54). -/
def State.advance (s : State) : State := s.fifoClock.shiftPipe s.nextCr

/-- The ISU address of an entry (60 R725). -/
def Entry.vector : Entry → Half
  | .trap => 0x0000
  | .interrupt => 0x0002

/-- What an entry saves: while the FIFO runs, the addresses of the words in interpret and fetch, the address after them, and
the skip count; then the FIFO stops (60 R722). -/
def State.saveFlow (s : State) : State :=
  if s.cpc.fifoRun then
    ((s.setFifo s.pipe.iar s.pipe.cr s.nextCr).setCa1 (s.pipe.skip ++ s.cpc.ca1.extractLsb' 0 6)).setFifoRun false
  else s

/-- The control bit an entry writes: `TI` <- 1 or `NIE` <- 0 (60 R722). -/
def State.markEntry (s : State) : Entry → State
  | .trap => s.setCa1At 11 true
  | .interrupt => s.setCa1At 10 false

/-- The address of this cycle's jump is not presented after all. -/
def State.presentNothing (s : State) : State := { s with bkpt := { s.bkpt with presents := none } }

/-- TAKING A TRAP OR INTERRUPT at the end of the cycle in which it was recognised, the instruction in execute having executed
(60 R722). The model's choice (log 49): a DJOR or RTI with J05 = 1 in that cycle writes no breakpoint, its address being never
fetched. -/
def State.enter (s : State) (e : Entry) : State :=
  let t := ((s.saveFlow.markEntry e).presentNothing.shiftPipe e.vector).void 2
  { t with pipe := { t.pipe with prev := none } }

/-! ### The return (47 R680) -/

/-- DJOR or RTI presents its jump address for a breakpoint to be set or cleared there, when J05 is 1; the write is made when the
address is fetched (60 R730; 45 R581). -/
def State.presentBkpt (s : State) (j06 j05 : Bool) : State :=
  if s.plat.bkptHw && j05 then { s with bkpt := { s.bkpt with presents := some j06 } } else s

/-- RETURNING, one of three RTIs: jump to the oldest FIFO entry, which rotates to the top (47 R680). -/
def State.restore (s : State) : State := (s.fifoRotate).jumpDelayed s.cpc.eari

/-- The restart of the FIFO at the third RTI, with the skip count owed. -/
def State.restart (s : State) : State := (s.setFifoRun true).void (s.cpc.ca1.extractLsb' 6 2)

/-! ### Results -/

/-- `f` on the next state, if there is one. -/
def andThen (o : Result) (f : State → Result) : Result :=
  match o with
  | .next s => f s
  | .fault r => .fault r
  | .refused r => .refused r

end Sys2Proof.Machine
end

