-- ==== Sys2Proof/Machine/Operands.lean ====
section
/-! DEFINITION. The operand forms: bytes (30 R326), digits, the bytes a MARS byte pointer selects (10 R43), condition selectors
(45 R572). -/

namespace Sys2Proof.Machine

/-- Byte `b` of a word, byte 0 the most significant (00 R13). -/
def byteOf (w : Word) (b : BitVec 2) : Byte :=
  match b.toNat with
  | 0 => w.extractLsb' 24 8
  | 1 => w.extractLsb' 16 8
  | 2 => w.extractLsb' 8 8
  | _ => w.extractLsb' 0 8

/-- A word with byte `b` replaced. -/
def putByte (w : Word) (b : BitVec 2) (v : Byte) : Word :=
  match b.toNat with
  | 0 => v ++ w.extractLsb' 0 24
  | 1 => w.extractLsb' 24 8 ++ v ++ w.extractLsb' 0 16
  | 2 => w.extractLsb' 16 16 ++ v ++ w.extractLsb' 0 8
  | _ => w.extractLsb' 8 24 ++ v

/-- The register of a byte address: RSU 0 to 3. -/
def byteReg (a : ByteAddr) : RsuNum := 0#2 ++ a.extractLsb' 2 2

/-- The byte number of a byte address. -/
def byteNum (a : ByteAddr) : BitVec 2 := a.extractLsb' 0 2

/-- The byte operand at a byte address, `BJ` or `BK` (R326). -/
def State.byteOp (s : State) (a : ByteAddr) : Byte := byteOf (s.rsu (byteReg a)) (byteNum a)

/-- The byte operand at a byte address replaced. -/
def State.setByteOp (s : State) (a : ByteAddr) (v : Byte) : State :=
  s.setRsu (byteReg a) (putByte (s.rsu (byteReg a)) (byteNum a) v)

/-- `LD`: the left digit of a byte. -/
def leftDigit (b : Byte) : Digit := b.extractLsb' 4 4

/-- `RD`: the right digit of a byte. -/
def rightDigit (b : Byte) : Digit := b.extractLsb' 0 4

/-- The byte pointer of the MARS unit whose address register is `a`: its two low bits (10 R43). -/
def State.pointer (s : State) (a : RsuNum) : BitVec 2 := (s.rsu a).extractLsb' 0 2

/-- The byte pointer replaced, the word address kept (10 R43). -/
def State.setPointer (s : State) (a : RsuNum) (p : BitVec 2) : State := s.setRsu a ((s.rsu a).extractLsb' 2 30 ++ p)

/-- A test of the bit pair `sel` of a byte for the value `v` (45 R572). -/
def testPair (b : Byte) (sel : Sel) (v : Bool) : Bool :=
  let ss := (sel.extractLsb' 2 2).toNat
  let l := bitAt b (2 * ss + 2) == v
  let r := bitAt b (2 * ss + 1) == v
  match (sel.extractLsb' 0 2).toNat with
  | 0 => l || r
  | 1 => r
  | 2 => l
  | _ => l && r

/-- `ones_in` (45 R572). -/
def onesIn (b : Byte) (sel : Sel) : Bool := testPair b sel true

/-- `zeros_in` (45 R572). -/
def zerosIn (b : Byte) (sel : Sel) : Bool := testPair b sel false

end Sys2Proof.Machine
end

