-- ==== Sys2Proof/Machine/Flags.lean ====
section
/-! DEFINITION. The arithmetic helpers and every computation of an indicator (44 R521 to R524, R560). -/

namespace Sys2Proof.Machine

/-! ### Binary arithmetic (R521) -/

/-- A sum with its carry out and its signed overflow. -/
structure Sum (w : Nat) where
  value : BitVec w
  carry : Bool
  overflow : Bool
  deriving DecidableEq, Repr

/-- `add(w, a, b, cin)` (R521). -/
def addC {w : Nat} (a b : BitVec w) (cin : Bool) : Sum w :=
  let s := a.toNat + b.toNat + cin.toNat
  let cout := decide (2 ^ w ≤ s)
  let top := decide (2 ^ (w - 1) ≤ a.toNat % 2 ^ (w - 1) + b.toNat % 2 ^ (w - 1) + cin.toNat)
  { value := BitVec.ofNat w s, carry := cout, overflow := top != cout }

/-- `sub(w, a, b, cin)`: `cin` = 1 for no borrow (R521). -/
def subC {w : Nat} (a b : BitVec w) (cin : Bool) : Sum w := addC a (~~~b) cin

/-! ### Decimal arithmetic (R522) -/

/-- `dadd` (R522). -/
def dadd (x y : Digit) (cin : Bool) : Digit × Bool :=
  let s := x.toNat + y.toNat + cin.toNat
  if 9 < s then (BitVec.ofNat 4 (s - 10), true) else (BitVec.ofNat 4 s, false)

/-- `dsub`: carry 1 = no borrow (R522). -/
def dsub (x y : Digit) (cin : Bool) : Digit × Bool :=
  let b := y.toNat + (1 - cin.toNat)
  if x.toNat < b then (BitVec.ofNat 4 (x.toNat + 10 - b), false) else (BitVec.ofNat 4 (x.toNat - b), true)

/-- Two digits combined by `f`, the carry running from the right digit to the left (R522). -/
def packed (f : Digit → Digit → Bool → Digit × Bool) (a b : Byte) (cin : Bool) : Byte × Bool :=
  let lo := f (rightDigit a) (rightDigit b) cin
  let hi := f (leftDigit a) (leftDigit b) lo.2
  (hi.1 ++ lo.1, hi.2)

/-- `padd` (R522). -/
def padd (a b : Byte) (cin : Bool) : Byte × Bool := packed dadd a b cin

/-- `psub` (R522). -/
def psub (a b : Byte) (cin : Bool) : Byte × Bool := packed dsub a b cin

/-- The digit is a decimal one. -/
def isDecimal (d : Digit) : Bool := decide (d.toNat ≤ 9)

/-- Both digits of the byte are decimal. -/
def isPacked (b : Byte) : Bool := isDecimal (leftDigit b) && isDecimal (rightDigit b)

/-- A packed result and its carry; with an operand digit above 9 both are free (93 U30). -/
def State.packedResult (s : State) (f : Byte → Byte → Bool → Byte × Bool) (a b : Byte) (cin : Bool) : (Byte × Bool) × State :=
  if isPacked a && isPacked b then (f a b cin, s)
  else ((s.drawByte.1, s.drawByte.2.drawBit.1), s.drawByte.2.drawBit.2)

/-- The digit an unpacked instruction computes and its carry; with an operand digit above 9 both are free (93 U30). -/
def State.digitResult (s : State) (f : Digit → Digit → Bool → Digit × Bool) (x y : Digit) (cin : Bool) : (Digit × Bool) × State :=
  if isDecimal x && isDecimal y then (f x y cin, s)
  else ((rightDigit s.drawByte.1, s.drawByte.2.drawBit.1), s.drawByte.2.drawBit.2)

/-! ### Indicators -/

/-- I1, I2 and I3 replaced. -/
def State.setOrder (s : State) (i1 i2 i3 : Bool) : State :=
  s.setInd (s.cpc.ind.extractLsb' 3 4 ++ bit1 i3 ++ bit1 i2 ++ bit1 i1)

/-- `nzp(w, r)` (R521). -/
def State.nzp {w : Nat} (s : State) (r : BitVec w) : State :=
  s.setOrder r.msb (r == 0#w) (!r.msb && r != 0#w)

/-- The order of two values, unsigned (R524). -/
def State.orderUnsigned {w : Nat} (s : State) (a b : BitVec w) : State :=
  s.setOrder (decide (a.toNat < b.toNat)) (a == b) (decide (b.toNat < a.toNat))

/-- The order of two values, signed (R524). -/
def State.orderSigned {w : Nat} (s : State) (a b : BitVec w) : State :=
  s.setOrder (decide (a.toInt < b.toInt)) (a == b) (decide (b.toInt < a.toInt))

/-- The indicators of a word sum: I1 to I5 (44 R532). -/
def State.wordFlags (s : State) (r : Sum 32) : State := ((s.setIndAt 4 r.carry).setIndAt 5 r.overflow).nzp r.value

/-- The indicators of a byte sum: I1 to I4 (44 R546). -/
def State.byteFlags (s : State) (r : Byte) (carry : Bool) : State := (s.setIndAt 4 carry).nzp r

/-- I1 and I3 free, I2 set for a zero digit (43 R491; 93 U31). -/
def State.digitFlags (s : State) (d : Digit) : State :=
  (s.drawBit.2.drawBit.2).setOrder s.drawBit.1 (d == 0#4) s.drawBit.2.drawBit.1

/-- The part of `bcd_check` for I5; `both`: the left digit counts too (R560). -/
def badDigit (both : Bool) (v : Byte) : Bool := (both && !isDecimal (leftDigit v)) || !isDecimal (rightDigit v)

/-- `bcd_check` of one byte: I5 and I6 are only ever set (R560). -/
def State.bcdCheck (s : State) (both : Bool) (v : Byte) : State :=
  (s.setIndAt 5 (s.indAt 5 || badDigit both v)).setIndAt 6 (s.indAt 6 || leftDigit v != 3#4)

end Sys2Proof.Machine
end

