-- ==== Sys2Proof/Machine/Arithmetic.lean ====
section
/-! DEFINITION. The meanings of the arithmetic and compare instructions on words and bytes (44). The field forms are in Field.lean. -/

namespace Sys2Proof.Machine

/-- A word sum to `RSU[j]` with its indicators (R532). -/
def State.putSum (s : State) (j : RsuNum) (r : Sum 32) : State := (s.setRsu j r.value).wordFlags r

/-- A byte result to `BJ` with its indicators (R546). -/
def State.putByteSum (s : State) (j : ByteAddr) (r : Byte) (carry : Bool) : State := (s.setByteOp j r).byteFlags r carry

/-- A literal of four bits as a wider value. -/
def litWord (k : Lit4) : Word := k.setWidth 32

/-- AW (R532). -/
def execAw (j k : RsuNum) (s : State) : Result := .next (s.putSum j (addC (s.rsu j) (s.rsu k) false))

/-- SW (R533). -/
def execSw (j k : RsuNum) (s : State) : Result := .next (s.putSum j (subC (s.rsu j) (s.rsu k) true))

/-- AWC (R534). -/
def execAwc (j k : RsuNum) (s : State) : Result := .next (s.putSum j (addC (s.rsu j) (s.rsu k) (s.indAt 4)))

/-- SWC (R535). -/
def execSwc (j k : RsuNum) (s : State) : Result := .next (s.putSum j (subC (s.rsu j) (s.rsu k) (s.indAt 4)))

/-- CWS (R536). -/
def execCws (j k : RsuNum) (s : State) : Result := .next (s.orderSigned (s.rsu j) (s.rsu k))

/-- CWU (R537). -/
def execCwu (j k : RsuNum) (s : State) : Result := .next (s.orderUnsigned (s.rsu j) (s.rsu k))

/-- ACRL (R539). -/
def execAcrl (j : RsuNum) (k : Lit4) (s : State) : Result :=
  .next (s.setRsu j (withRight (s.rsu j) (s.csa + k.setWidth 16)))

/-- AWLNI (R540). -/
def execAwlni (j : RsuNum) (k : Lit4) (s : State) : Result := .next (s.setRsu j (s.rsu j + litWord k))

/-- SWLNI (R541). -/
def execSwlni (j : RsuNum) (k : Lit4) (s : State) : Result := .next (s.setRsu j (s.rsu j - litWord k))

/-- AWL (R542). -/
def execAwl (j : RsuNum) (k : Lit4) (s : State) : Result := .next (s.putSum j (addC (s.rsu j) (litWord k) false))

/-- SWL (R543). -/
def execSwl (j : RsuNum) (k : Lit4) (s : State) : Result := .next (s.putSum j (subC (s.rsu j) (litWord k) true))

/-- CBS (R544). -/
def execCbs (j k : ByteAddr) (s : State) : Result := .next (s.orderSigned (s.byteOp j) (s.byteOp k))

/-- CBU (R545). -/
def execCbu (j k : ByteAddr) (s : State) : Result := .next (s.orderUnsigned (s.byteOp j) (s.byteOp k))

/-- AB (R546). -/
def execAb (j k : ByteAddr) (s : State) : Result :=
  let r := addC (s.byteOp j) (s.byteOp k) false
  .next (s.putByteSum j r.value r.carry)

/-- SB (R547). -/
def execSb (j k : ByteAddr) (s : State) : Result :=
  let r := subC (s.byteOp j) (s.byteOp k) true
  .next (s.putByteSum j r.value r.carry)

/-- ABC (R548). -/
def execAbc (j k : ByteAddr) (s : State) : Result :=
  let r := addC (s.byteOp j) (s.byteOp k) (s.indAt 4)
  .next (s.putByteSum j r.value r.carry)

/-- SBC (R549). -/
def execSbc (j k : ByteAddr) (s : State) : Result :=
  let r := subC (s.byteOp j) (s.byteOp k) (s.indAt 4)
  .next (s.putByteSum j r.value r.carry)

/-- SBL (R554). -/
def execSbl (j : ByteAddr) (k : Lit4) (s : State) : Result :=
  let r := subC (s.byteOp j) (k.setWidth 8) true
  .next (s.putByteSum j r.value r.carry)

/-- A packed decimal byte instruction: the checks, the result, the indicators (R550 to R553). -/
def State.packedByte (s : State) (f : Byte → Byte → Bool → Byte × Bool) (j k : ByteAddr) (cin : Bool) : State :=
  let a := s.byteOp j
  let b := s.byteOp k
  let r := ((s.bcdCheck true a).bcdCheck true b).packedResult f a b cin
  r.2.putByteSum j r.1.1 r.1.2

/-- APDB (R550). -/
def execApdb (j k : ByteAddr) (s : State) : Result := .next (s.packedByte padd j k false)

/-- SPDB (R551). -/
def execSpdb (j k : ByteAddr) (s : State) : Result := .next (s.packedByte psub j k true)

/-- APDBC (R552). -/
def execApdbc (j k : ByteAddr) (s : State) : Result := .next (s.packedByte padd j k (s.indAt 4))

/-- SPDBC (R553). -/
def execSpdbc (j k : ByteAddr) (s : State) : Result := .next (s.packedByte psub j k (s.indAt 4))

end Sys2Proof.Machine
end

