-- ==== Sys2Proof/Machine/Field.lean ====
section
/-! DEFINITION. The field machinery and the meanings of the field instructions: transfers (42), booleans (43), arithmetic and
compares (44). A MARS unit is named by its data register: 9, 11, 13, 15. -/

namespace Sys2Proof.Machine

/-! ### The machinery (42 R441 to R446) -/

/-- Bit `n` of the State Register replaced. -/
def State.setSrAt (s : State) (n : Nat) (b : Bool) : State := s.setSr (putBit s.cpc.sr n b)

/-- The address register of the unit with data register `k` (10 R41). -/
def addrReg (k : RsuNum) : RsuNum := evenOf k

/-- The bit of the State Register that is the overflow flag of the unit: M4OF is 2 (10 R56). -/
def overflowBit (k : RsuNum) : Nat := k.toNat / 2 - 2

/-- `DFP`, 1 for right to left (R445). -/
def State.setDirection (s : State) (dec : Bool) : State := s.setSrAt 1 dec

/-- `fbyte` (R442). -/
def State.fbyte (s : State) (k : RsuNum) : Byte := byteOf (s.rsu k) (s.pointer (addrReg k))

/-- `put6` (R442). -/
def State.put6 (s : State) (b : Byte) : State :=
  let p := s.pointer 12
  let t := s.setRsu 13 (putByte (s.rsu 13) p b)
  { t with cpc := { t.cpc with m6wt := putBit t.cpc.m6wt (4 - p.toNat) true } }

/-- A step of the unit's byte pointer would cross the word boundary (R442). -/
def State.crosses (s : State) (k : RsuNum) (dec : Bool) : Bool := s.pointer (addrReg k) == (if dec then 0#2 else 3#2)

/-- The overflow flag of the unit set, if `b`. -/
def State.overflow (s : State) (k : RsuNum) (b : Bool) : State := if b then s.setSrAt (overflowBit k) true else s

/-- The unit's byte pointer moved by one. -/
def State.movePointer (s : State) (k : RsuNum) (dec : Bool) : State :=
  s.setPointer (addrReg k) (if dec then s.pointer (addrReg k) - 1 else s.pointer (addrReg k) + 1)

/-- `step` (R442). -/
def State.stepUnit (s : State) (k : RsuNum) (dec : Bool) : State :=
  (s.overflow k (s.crosses k dec)).movePointer k dec

/-- The tally counted down by one and the direction written, at the end of a byte step. -/
def State.countByte (s : State) (dec : Bool) : State := (s.setTally (s.cpc.tally - 1)).setDirection dec

/-- A step is voided when the tally is 0 (R443). -/
def State.unlessVoid (s : State) (f : State → State) : State := if s.cpc.tally = 0#16 then s else f s

/-- The byte steps of a multi-cycle instruction: on until `one` says to exit, the tally is used up, or the step's cycles are
(R441). -/
def fieldLoop (one : State → State × Bool) : Nat → State → State
  | 0, s => s
  | n + 1, s => if (one s).2 || (one s).1.cpc.tally == 0#16 then (one s).1 else fieldLoop one n (one s).1

/-- A multi-cycle field instruction (R441, R443). -/
def State.fieldRun (s : State) (one : State → State × Bool) : Result :=
  .next (s.unlessVoid fun s => fieldLoop one s.pipe.fieldCycles s)

/-! ### Field byte to byte (42 R450 to R454) -/

/-- The field byte to `BJ`, checked (R446). -/
def State.fieldToByte (s : State) (j : ByteAddr) (k : RsuNum) : State :=
  (s.bcdCheck true (s.fbyte k)).setByteOp j (s.fbyte k)

/-- TFB (R450). -/
def execTfb (j : ByteAddr) (k : RsuNum) (s : State) : Result := .next (s.fieldToByte j k)

/-- TFBD (R451). -/
def execTfbd (j : ByteAddr) (k : RsuNum) (s : State) : Result :=
  .next (s.unlessVoid fun s => ((s.fieldToByte j k).stepUnit k true).countByte true)

/-- TFBDN (R452). -/
def execTfbdn (j : ByteAddr) (k : RsuNum) (s : State) : Result :=
  .next (((s.fieldToByte j k).stepUnit k true).setDirection true)

/-- TFBI (R453). -/
def execTfbi (j : ByteAddr) (k : RsuNum) (s : State) : Result :=
  .next (s.unlessVoid fun s => ((s.fieldToByte j k).stepUnit k false).countByte false)

/-- TFBIN (R454). -/
def execTfbin (j : ByteAddr) (k : RsuNum) (s : State) : Result :=
  .next (((s.fieldToByte j k).stepUnit k false).setDirection false)

/-! ### Byte to field (42 R455 to R459) -/

/-- `BJ` to the MARS6 field byte, checked (R446). -/
def State.byteToField (s : State) (j : ByteAddr) : State := (s.bcdCheck true (s.byteOp j)).put6 (s.byteOp j)

/-- TBF (R455). -/
def execTbf (j : ByteAddr) (s : State) : Result := .next (s.byteToField j)

/-- TBFD (R456). -/
def execTbfd (j : ByteAddr) (s : State) : Result :=
  .next (s.unlessVoid fun s => ((s.byteToField j).stepUnit 13 true).countByte true)

/-- TBFDN (R457). -/
def execTbfdn (j : ByteAddr) (s : State) : Result := .next (((s.byteToField j).stepUnit 13 true).setDirection true)

/-- TBFI (R458). -/
def execTbfi (j : ByteAddr) (s : State) : Result :=
  .next (s.unlessVoid fun s => ((s.byteToField j).stepUnit 13 false).countByte false)

/-- TBFIN (R459). -/
def execTbfin (j : ByteAddr) (s : State) : Result := .next (((s.byteToField j).stepUnit 13 false).setDirection false)

/-! ### Field to field (42 R460, R461) -/

/-- One byte step of TFFD (`dec`) or TFFI, and whether a pointer crossed. -/
def fieldTransferStep (dec : Bool) (s : State) : State × Bool :=
  let b := s.fbyte 9
  (((((s.bcdCheck true b).put6 b).stepUnit 9 dec).stepUnit 13 dec).countByte dec, s.crosses 9 dec || s.crosses 13 dec)

/-- TFFD (R460). -/
def execTffd (s : State) : Result := s.fieldRun (fieldTransferStep true)

/-- TFFI (R461). -/
def execTffi (s : State) : Result := s.fieldRun (fieldTransferStep false)

/-! ### Halfwords (42 R462 to R471) -/

/-- The byte pointer of the unit is odd (R471; 93 U40). -/
def State.oddPointer (s : State) (k : RsuNum) : Bool := bitAt (s.pointer (addrReg k)) 1

/-- A halfword field instruction of the unit `k`, which does `f`: voided while the tally is 0 (R443), refused with a tally of 1 and at
an odd pointer (R470, R471; 93 U39, U40). -/
def State.halfwordStep (s : State) (k : RsuNum) (f : State → State) : Result :=
  if s.cpc.tally = 0#16 then .next s
  else if s.cpc.tally = 1#16 then .refused .halfwordTallyOne
  else if s.oddPointer k then .refused .oddFieldPointer
  else .next (f s)

/-- `fhalf` (R442). -/
def State.fhalf (s : State) (k : RsuNum) : Half :=
  if s.pointer (addrReg k) = 0#2 then leftHalf (s.rsu k) else rightHalf (s.rsu k)

/-- The left half of a register loaded by a field instruction; the bytes put in RSU 13 set their write tags (R444; 10 R67). -/
def State.loadLeft (s : State) (j : RsuNum) (h : Half) : State :=
  let t := s.setRsu j (withLeft (s.rsu j) h)
  if j = 13#4 then t.setM6wt (s.cpc.m6wt ||| 0b1100#4) else t

/-- The right half, likewise. -/
def State.loadRight (s : State) (j : RsuNum) (h : Half) : State :=
  let t := s.setRsu j (withRight (s.rsu j) h)
  if j = 13#4 then t.setM6wt (s.cpc.m6wt ||| 0b0011#4) else t

/-- `put6h` (R442). -/
def State.put6h (s : State) (h : Half) : State := if s.pointer 12 = 0#2 then s.loadLeft 13 h else s.loadRight 13 h

/-- A step by two would cross the word boundary (R442). -/
def State.crossesTwo (s : State) (k : RsuNum) (dec : Bool) : Bool := s.pointer (addrReg k) == (if dec then 0#2 else 2#2)

/-- `step2`, from the pointer that the instruction found in `old` (00 R17); adding two and subtracting two are the same modulo 4
(R442). The model's choice (log 41): where the instruction also loads the address register, the step writes the pointer's bits last. -/
def State.stepTwo (s old : State) (k : RsuNum) (dec : Bool) : State :=
  (s.overflow k (old.crossesTwo k dec)).setPointer (addrReg k) (old.pointer (addrReg k) + 2)

/-- `tally_minus_2`, from 2 on (R442). -/
def State.countTwo (s : State) : State := s.setTally (s.cpc.tally - 2)

/-- The end of a halfword step that began in `old`: the pointer, the tally, the direction. -/
def State.endHalf (s old : State) (k : RsuNum) (dec : Bool) : State := ((s.stepTwo old k dec).countTwo).setDirection dec

/-- The field halfword to a half of `RSU[j]`, which half `load` says (R462, R464). With `j` the unit's own address register the pointer
ends two further than it was, whatever the halfword (log 41). -/
def State.fieldToHalf (s : State) (load : State → RsuNum → Half → State) (j k : RsuNum) (dec : Bool) : Result :=
  s.halfwordStep k fun s => (load s j (s.fhalf k)).endHalf s k dec

/-- TFLHD (R462). -/
def execTflhd (j k : RsuNum) (s : State) : Result := s.fieldToHalf State.loadLeft j k true

/-- TFLHI (R463). -/
def execTflhi (j k : RsuNum) (s : State) : Result := s.fieldToHalf State.loadLeft j k false

/-- TFRHD (R464). -/
def execTfrhd (j k : RsuNum) (s : State) : Result := s.fieldToHalf State.loadRight j k true

/-- TFRHI (R465). -/
def execTfrhi (j k : RsuNum) (s : State) : Result := s.fieldToHalf State.loadRight j k false

/-- A halfword to the MARS6 field; bytes left over when the tally runs out set M6OF (R466). -/
def State.halfToField (s : State) (h : Half) (dec : Bool) : Result :=
  s.halfwordStep 13 fun s =>
    let t := (s.put6h h).endHalf s 13 dec
    t.overflow 13 (t.cpc.tally == 0#16 && t.cpc.m6wt != 0#4)

/-- TLHFD (R466). -/
def execTlhfd (j : RsuNum) (s : State) : Result := s.halfToField (leftHalf (s.rsu j)) true

/-- TLHFI (R467). -/
def execTlhfi (j : RsuNum) (s : State) : Result := s.halfToField (leftHalf (s.rsu j)) false

/-- TRHFD (R468). -/
def execTrhfd (j : RsuNum) (s : State) : Result := s.halfToField (rightHalf (s.rsu j)) true

/-- TRHFI (R469). -/
def execTrhfi (j : RsuNum) (s : State) : Result := s.halfToField (rightHalf (s.rsu j)) false

/-! ### Three fields: MARS4 and MARS5 into MARS6, decrementing (43 R481; 44 R525) -/

/-- The end of a step on three fields, and whether a pointer crossed. -/
def State.endThree (s : State) : State × Bool :=
  ((((s.stepUnit 9 true).stepUnit 11 true).stepUnit 13 true).countByte true,
    s.crosses 9 true || s.crosses 11 true || s.crosses 13 true)

/-- One byte step of a boolean field instruction. -/
def booleanStep (f : Byte → Byte → Byte) (s : State) : State × Bool := (s.put6 (f (s.fbyte 9) (s.fbyte 11))).endThree

/-- BAF (43 R481). -/
def execBaf (s : State) : Result := s.fieldRun (booleanStep fun a b => a &&& b)

/-- BOF (43 R482). -/
def execBof (s : State) : Result := s.fieldRun (booleanStep fun a b => a ||| b)

/-- BEF (43 R483). -/
def execBef (s : State) : Result := s.fieldRun (booleanStep fun a b => a ^^^ b)

/-- One byte step of AF or SF: the carry chains through I4 (44 R525). -/
def binaryStep (f : Byte → Byte → Bool → Sum 8) (s : State) : State × Bool :=
  let r := f (s.fbyte 9) (s.fbyte 11) (s.indAt 4)
  ((s.put6 r.value).setIndAt 4 r.carry).endThree

/-- AF (44 R525). -/
def execAf (s : State) : Result := s.fieldRun (binaryStep addC)

/-- SF (44 R526). -/
def execSf (s : State) : Result := s.fieldRun (binaryStep subC)

/-- One byte step of APDF or SPDF (44 R528). -/
def packedStep (f : Byte → Byte → Bool → Byte × Bool) (s : State) : State × Bool :=
  let a := s.fbyte 9
  let b := s.fbyte 11
  let r := ((s.bcdCheck true a).bcdCheck true b).packedResult f a b (s.indAt 4)
  ((r.2.put6 r.1.1).setIndAt 4 r.1.2).endThree

/-- APDF (44 R528). -/
def execApdf (s : State) : Result := s.fieldRun (packedStep padd)

/-- SPDF (44 R529). -/
def execSpdf (s : State) : Result := s.fieldRun (packedStep psub)

/-- One byte step of AUDF or SUDF: the right digits, zone 3 (44 R523, R530). -/
def unpackedStep (f : Digit → Digit → Bool → Digit × Bool) (s : State) : State × Bool :=
  let a := s.fbyte 9
  let b := s.fbyte 11
  let r := ((s.bcdCheck false a).bcdCheck false b).digitResult f (rightDigit a) (rightDigit b) (s.indAt 4)
  ((r.2.put6 (3#4 ++ r.1.1)).setIndAt 4 r.1.2).endThree

/-- AUDF (44 R530). -/
def execAudf (s : State) : Result := s.fieldRun (unpackedStep dadd)

/-- SUDF (44 R531). -/
def execSudf (s : State) : Result := s.fieldRun (unpackedStep dsub)

/-! ### Field compares (44 R527, R538) -/

/-- The checks and the order of the two field bytes. -/
def State.compareFields (s : State) : State :=
  ((s.bcdCheck true (s.fbyte 9)).bcdCheck true (s.fbyte 11)).orderUnsigned (s.fbyte 9) (s.fbyte 11)

/-- A compare's pointer move: a crossing is ignored after a mismatch. -/
def State.compareMove (s : State) (k : RsuNum) (mismatch : Bool) : State :=
  (s.overflow k (!mismatch && s.crosses k false)).movePointer k false

/-- One byte step of CFU. -/
def cfuStep (s : State) : State × Bool :=
  let mismatch := s.fbyte 9 != s.fbyte 11
  (((s.compareFields.compareMove 9 mismatch).compareMove 11 mismatch).countByte false,
    mismatch || s.crosses 9 false || s.crosses 11 false)

/-- CFU (44 R527). -/
def execCfu (s : State) : Result := s.fieldRun cfuStep

/-- One byte step of CBFU: the MARS4 pointer stays. -/
def cbfuStep (s : State) : State × Bool :=
  let mismatch := s.fbyte 9 != s.fbyte 11
  ((s.compareFields.compareMove 11 mismatch).countByte false, mismatch || s.crosses 11 false)

/-- CBFU (44 R538). -/
def execCbfu (s : State) : Result := s.fieldRun cbfuStep

end Sys2Proof.Machine
end

