-- ==== Sys2Proof/Machine/Jump.lean ====
section
/-! DEFINITION. The meanings of the jumps, returns and skips (45). -/

namespace Sys2Proof.Machine

/-- `f` of the state if the condition holds, else the state. -/
def State.when (s : State) (c : Bool) (f : State → State) : State := if c then f s else s

/-- The jump of a two-word instruction: to `l` if the condition holds, else only the literal is voided (R571). -/
def State.jumpLong (s : State) (c : Bool) (l : Half) : State := if c then s.jumpImmediate l else s.void 1

/-- `CSA + d`. -/
def State.ahead (s : State) {w : Nat} (d : BitVec w) : Half := s.csa + d.setWidth 16

/-- Where JIBO, JIBZ, DJIBO and DJIBZ go: `CSA + K` (45 R585, R586, R593, R594), or on some machines the address in the right half of
`RSU[K]` (30 R328; log 20). -/
def State.pairTarget (s : State) (k : Lit4) : Half :=
  if s.plat.pairJumpsByRsu then rightHalf (s.rsu k) else s.ahead k

/-- `CSA - d`. -/
def State.behind (s : State) {w : Nat} (d : BitVec w) : Half := s.csa - d.setWidth 16

/-- JOR (R580). -/
def execJor (_j : Lit4) (k : RsuNum) (s : State) : Result := .next (s.jumpImmediate (rightHalf (s.rsu k)))

/-- DJOR (R581), with the breakpoint controls J06 and J05. -/
def execDjor (j : Lit4) (k : RsuNum) (s : State) : Result :=
  .next ((s.presentBkpt (bitAt j 2) (bitAt j 1)).jumpDelayed (rightHalf (s.rsu k)))

/-- JPMBN (R582): to the complement of the halfword on the bus. -/
def execJpmbn (s : State) : Result := .next (s.busHalf.2.jumpImmediate (~~~s.busHalf.1))

/-- DJPMBN (R583): to the complement of the halfword on the bus. -/
def execDjpmbn (s : State) : Result := .next (s.busHalf.2.jumpDelayed (~~~s.busHalf.1))

/-- SRB3O (R584). -/
def execSrb3o (sel : Sel) (k : RsuNum) (s : State) : Result :=
  .next (s.when (onesIn (byteOf (s.rsu k) 3) sel) fun s => s.void 1)

/-- DJIBO (R585). -/
def execDjibo (sel : Sel) (k : Lit4) (s : State) : Result :=
  .next (s.when (onesIn s.indicators sel) fun s => s.jumpDelayed (s.pairTarget k))

/-- DJIBZ (R586). -/
def execDjibz (sel : Sel) (k : Lit4) (s : State) : Result :=
  .next (s.when (zerosIn s.indicators sel) fun s => s.jumpDelayed (s.pairTarget k))

/-- RIBO (R587). -/
def execRibo (jr : JrNum) (sel : Sel) (s : State) : Result :=
  .next (s.when (onesIn s.indicators sel) fun s => s.jumpImmediate (s.jr jr))

/-- DRIBO (R588). -/
def execDribo (jr : JrNum) (sel : Sel) (s : State) : Result :=
  .next (s.when (onesIn s.indicators sel) fun s => s.jumpDelayed (s.jr jr))

/-- RIBZ (R589). -/
def execRibz (jr : JrNum) (sel : Sel) (s : State) : Result :=
  .next (s.when (zerosIn s.indicators sel) fun s => s.jumpImmediate (s.jr jr))

/-- DRIBZ (R590). -/
def execDribz (jr : JrNum) (sel : Sel) (s : State) : Result :=
  .next (s.when (zerosIn s.indicators sel) fun s => s.jumpDelayed (s.jr jr))

/-- An overflow flag is set and the tally is not used up (R591). -/
def State.fieldOverflow (s : State) : Bool := s.cpc.sr.extractLsb' 1 4 != 0#4 && s.cpc.tally != 0#16

/-- The vector of the Field Array (R591): DFP, M7OF, M6OF, M5OF, M4OF behind the upper half of `JR[7]`. -/
def State.fieldVector (s : State) : Half :=
  (s.jr 7).extractLsb' 8 8 ++ s.cpc.sr.extractLsb' 0 1 ++ s.cpc.sr.extractLsb' 1 4 ++ 0#3

/-- JFA (R591). -/
def execJfa (s : State) : Result := .next (s.when s.fieldOverflow fun s => s.jumpImmediate s.fieldVector)

/-- JFAL (R592): the link is the address in the interpret stage. -/
def execJfal (s : State) : Result :=
  .next (s.when s.fieldOverflow fun s => (s.jumpImmediate s.fieldVector).setJr 6 s.pipe.iar)

/-- JIBO (R593). -/
def execJibo (sel : Sel) (k : Lit4) (s : State) : Result :=
  .next (s.when (onesIn s.indicators sel) fun s => s.jumpImmediate (s.pairTarget k))

/-- JIBZ (R594). -/
def execJibz (sel : Sel) (k : Lit4) (s : State) : Result :=
  .next (s.when (zerosIn s.indicators sel) fun s => s.jumpImmediate (s.pairTarget k))

/-- JRP (R595). -/
def execJrp (disp : Byte) (s : State) : Result := .next (s.jumpImmediate (s.ahead disp))

/-- JRM (R596). -/
def execJrm (disp : Byte) (s : State) : Result := .next (s.jumpImmediate (s.behind disp))

/-- DJRP (R597). -/
def execDjrp (disp : Byte) (s : State) : Result := .next (s.jumpDelayed (s.ahead disp))

/-- DJRM (R598). -/
def execDjrm (disp : Byte) (s : State) : Result := .next (s.jumpDelayed (s.behind disp))

/-- JIOL (R599): the link is the address being fetched. -/
def execJiol (hi : Lit4) (jr : JrNum) (k : Lit4) (l : Half) (s : State) : Result :=
  let c := ((hi ++ k) &&& s.indicators) != 0#8
  .next ((s.jumpLong c l).when c fun t => t.setJr jr s.pipe.cr)

/-- JIZL (R600). -/
def execJizl (hi : Lit4) (jr : JrNum) (k : Lit4) (l : Half) (s : State) : Result :=
  let c := ((hi ++ k) &&& ~~~s.indicators) != 0#8
  .next ((s.jumpLong c l).when c fun t => t.setJr jr s.pipe.cr)

/-- DJTNZ (R601). -/
def execDjtnz (disp : Byte) (s : State) : Result :=
  .next (s.when (s.cpc.tally != 0#16) fun s => (s.setTally (s.cpc.tally - 1)).jumpDelayed (s.behind disp))

/-- JRPX (R602). -/
def execJrpx (disp : Byte) (s : State) : Result :=
  .next (s.when s.pipe.vpbsy fun s => s.jumpImmediate (s.ahead disp))

/-- JRMX (R603). -/
def execJrmx (disp : Byte) (s : State) : Result :=
  .next (s.when s.pipe.vpbsy fun s => s.jumpImmediate (s.behind disp))

/-- JIBOM (R604). -/
def execJibom (sel : Sel) (k : Lit4) (s : State) : Result :=
  .next (s.when (onesIn s.indicators sel) fun s => s.jumpImmediate (s.behind k))

/-- JIBZM (R605). -/
def execJibzm (sel : Sel) (k : Lit4) (s : State) : Result :=
  .next (s.when (zerosIn s.indicators sel) fun s => s.jumpImmediate (s.behind k))

/-- DJIBOM (R606). -/
def execDjibom (sel : Sel) (k : Lit4) (s : State) : Result :=
  .next (s.when (onesIn s.indicators sel) fun s => s.jumpDelayed (s.behind k))

/-- DJIBZM (R607). -/
def execDjibzm (sel : Sel) (k : Lit4) (s : State) : Result :=
  .next (s.when (zerosIn s.indicators sel) fun s => s.jumpDelayed (s.behind k))

/-- JIBOL (R608). -/
def execJibol (sel : Sel) (l : Half) (s : State) : Result := .next (s.jumpLong (onesIn s.indicators sel) l)

/-- JIBZL (R609). -/
def execJibzl (sel : Sel) (l : Half) (s : State) : Result := .next (s.jumpLong (zerosIn s.indicators sel) l)

/-- SIBO (R610). -/
def execSibo (sel : Sel) (s : State) : Result := .next (s.when (onesIn s.indicators sel) fun s => s.void 1)

/-- SIBZ (R611). -/
def execSibz (sel : Sel) (s : State) : Result := .next (s.when (zerosIn s.indicators sel) fun s => s.void 1)

/-- JTNZ (R612). -/
def execJtnz (disp : Byte) (s : State) : Result :=
  .next (s.when (s.cpc.tally != 0#16) fun s => (s.setTally (s.cpc.tally - 1)).jumpImmediate (s.behind disp))

/-- SRU (R613). -/
def execSru (j k : ByteAddr) (s : State) : Result := .next (s.when (s.byteOp j != s.byteOp k) fun s => s.void 1)

/-- SRE (R614). -/
def execSre (j k : ByteAddr) (s : State) : Result := .next (s.when (s.byteOp j == s.byteOp k) fun s => s.void 1)

/-- SRBO (R615). -/
def execSrbo (sel : Sel) (k : ByteAddr) (s : State) : Result :=
  .next (s.when (onesIn (s.byteOp k) sel) fun s => s.void 1)

/-- SRBZ (R616). -/
def execSrbz (sel : Sel) (k : ByteAddr) (s : State) : Result :=
  .next (s.when (zerosIn (s.byteOp k) sel) fun s => s.void 1)

/-- JRO (R617). -/
def execJro (hi j : Lit4) (k : ByteAddr) (l : Half) (s : State) : Result :=
  .next (s.jumpLong (((hi ++ j) &&& s.byteOp k) == hi ++ j) l)

/-- JRZ (R618). -/
def execJrz (hi j : Lit4) (k : ByteAddr) (l : Half) (s : State) : Result :=
  .next (s.jumpLong (((hi ++ j) &&& s.byteOp k) == 0#8) l)

end Sys2Proof.Machine
end

