-- ==== Sys2Proof/Machine/Logical.lean ====
section
/-! DEFINITION. The meanings of the logical instructions on words, bytes and digits (43). The field forms are in Field.lean. -/

namespace Sys2Proof.Machine

/-- A word to `RSU[j]`, I1 to I3 from it (43 R480). -/
def State.putWordNzp (s : State) (j : RsuNum) (r : Word) : State := (s.setRsu j r).nzp r

/-- A byte to `BJ`, I1 to I3 from it (43 R480). -/
def State.putByteNzp (s : State) (j : ByteAddr) (r : Byte) : State := (s.setByteOp j r).nzp r

/-- A digit to the left digit of `BJ`, I2 from it. -/
def State.putLeftDigit (s : State) (j : ByteAddr) (d : Digit) : State :=
  (s.setByteOp j (d ++ rightDigit (s.byteOp j))).digitFlags d

/-- A digit to the right digit of `BJ`, I2 from it. -/
def State.putRightDigit (s : State) (j : ByteAddr) (d : Digit) : State :=
  (s.setByteOp j (leftDigit (s.byteOp j) ++ d)).digitFlags d

/-- BAW (R484). -/
def execBaw (j k : RsuNum) (s : State) : Result := .next (s.putWordNzp j (s.rsu j &&& s.rsu k))

/-- BOW (R485). -/
def execBow (j k : RsuNum) (s : State) : Result := .next (s.putWordNzp j (s.rsu j ||| s.rsu k))

/-- BEW (R486). -/
def execBew (j k : RsuNum) (s : State) : Result := .next (s.putWordNzp j (s.rsu j ^^^ s.rsu k))

/-- BIW (R487). -/
def execBiw (j k : RsuNum) (s : State) : Result := .next (s.putWordNzp j (~~~s.rsu k))

/-- BAB (R488). -/
def execBab (j k : ByteAddr) (s : State) : Result := .next (s.putByteNzp j (s.byteOp j &&& s.byteOp k))

/-- BOB (R489). -/
def execBob (j k : ByteAddr) (s : State) : Result := .next (s.putByteNzp j (s.byteOp j ||| s.byteOp k))

/-- BEB (R490). -/
def execBeb (j k : ByteAddr) (s : State) : Result := .next (s.putByteNzp j (s.byteOp j ^^^ s.byteOp k))

/-- BALD (R491). -/
def execBald (j : ByteAddr) (k : Lit4) (s : State) : Result := .next (s.putLeftDigit j (leftDigit (s.byteOp j) &&& k))

/-- BARD (R492). -/
def execBard (j : ByteAddr) (k : Lit4) (s : State) : Result := .next (s.putRightDigit j (rightDigit (s.byteOp j) &&& k))

/-- BOLD (R493). -/
def execBold (j : ByteAddr) (k : Lit4) (s : State) : Result := .next (s.putLeftDigit j (leftDigit (s.byteOp j) ||| k))

/-- BORD (R494). -/
def execBord (j : ByteAddr) (k : Lit4) (s : State) : Result := .next (s.putRightDigit j (rightDigit (s.byteOp j) ||| k))

/-- BELD (R495). -/
def execBeld (j : ByteAddr) (k : Lit4) (s : State) : Result := .next (s.putLeftDigit j (leftDigit (s.byteOp j) ^^^ k))

/-- BERD (R496). -/
def execBerd (j : ByteAddr) (k : Lit4) (s : State) : Result := .next (s.putRightDigit j (rightDigit (s.byteOp j) ^^^ k))

/-- BIB (R497). -/
def execBib (j k : ByteAddr) (s : State) : Result := .next (s.putByteNzp j (~~~s.byteOp k))

end Sys2Proof.Machine
end

