-- ==== Sys2Proof/Machine/Atc.lean ====
section
/-! DEFINITION. The memory operations of the PM Bus (20 R197 to R212), the virtual operation (21 R222), and the registers and
commands of the ATC (11 R122; 21 section 6). -/

namespace Sys2Proof.Machine

/-! ### The ATC's registers, small pieces -/

/-- Bit `n` of Control Array 2. -/
def State.ca2At (s : State) (n : Nat) : Bool := bitAt s.atc.ca2 n

/-- The interrupt conditions `c` (bit `n` of `c` for `ITA.n`) that the mask lets through (60 R702). -/
def State.unmasked (s : State) (c : Half) : Half := c &&& ~~~s.atc.imr

/-- Interrupt conditions posted under the mask (60 R702). -/
def State.post (s : State) (c : Half) : State := { s with atc := { s.atc with ita := s.atc.ita ||| s.unmasked c } }

/-- The bit of `ITA.n`, if `b`. -/
def itaBit (n : Nat) (b : Bool) : Half := if b then 1#16 <<< (n - 1) else 0#16

/-- The memory error trap (60 R714): posted with REQS, unless ECC is disabled. -/
def State.memoryErrorTrap (s : State) : State :=
  if s.plat.atcPresent && !s.ca2At 7 then
    { s with atc := { s.atc with ita := putBit s.atc.ita 14 true, reqs := true, memErr := true, mdee := true } }
  else s

/-- The MEMERR and MDEE outputs for an error status (22 R293). -/
def State.signalError (s : State) (e : EccStatus) : State :=
  { s with atc := { s.atc with memErr := s.atc.memErr || e != .ok, mdee := s.atc.mdee || e == .uncorrectable } }

/-- The ATC has received an operation: the hazard of the sixteenth RR bit is over (70 R781). -/
def State.atcReceived (s : State) : State := { s with atc := { s.atc with rrResetting := false } }

/-- The state of the memory sequencer, and who started the operation (11 R141, R142). -/
def State.setSeq (s : State) (q : AtcSeq) (byCpc : Bool) : State :=
  { s with atc := { s.atc with seq := q, seqGoesOn := false, cpcInitiated := byCpc } }

/-! ### Where a message goes in memory -/

/-- A memory word as a message addresses it: its word address and the scratch pad mark. -/
structure Target where
  scratch : Bool
  wa : BitVec 22
  deriving DecidableEq, Repr

/-- `MEM_WORDS` (92 D1). -/
def State.memWords (s : State) : Nat := s.plat.memBanks * 65536

/-- A real address of the CPC: bits 24 to 3 of the register. With all ones down to bit 10 it carries the scratch pad mark, on some
machines only if the register's bit 32 is 1; with any other address no mark does (20 R187; 40 R362, R367; log 12). -/
def State.realTarget (s : State) (a : Word) : Target :=
  { scratch := a.extractLsb' 9 15 == 0x7FFF#15 && (s.plat.allOnesMarked || bitAt a 32), wa := a.extractLsb' 2 22 }

/-- A real message of another device: PMBUS32 is the scratch pad mark (20 R187). -/
def messageTarget (a : Word) : Target := { scratch := bitAt a 32, wa := a.extractLsb' 2 22 }

/-- The address word of a real fetch of the CPC: the mark, the word address, zeros (22 R292; log 14). -/
def Target.busWord (t : Target) : Word := bit1 t.scratch ++ 0#7 ++ t.wa ++ 0#2

/-- The address word of another device's fetch: its own bits, with no byte enable (22 R292). -/
def fetchBusWord (a : Word) : Word := a.extractLsb' 28 4 ++ 0#4 ++ a.extractLsb' 0 24

/-- Scratch pad word `n` (20 R187). -/
def scratchTarget (n : BitVec 7) : Target := { scratch := true, wa := 0x7FFF#15 ++ n }

/-- The installed word a target is (20 R187). -/
def State.physical (s : State) (t : Target) : Nat :=
  if t.scratch then s.memWords - 128 + (t.wa.extractLsb' 0 7).toNat else t.wa.toNat

/-- The target is beyond the installed memory (20 R211). -/
def State.beyond (s : State) (t : Target) : Bool := !t.scratch && decide (s.memWords ≤ t.wa.toNat)

/-! ### Reading and writing words -/

/-- What the error check makes of an installed word: the word as stored without an ATC (22 R299) or with ECC disabled (20 R209). -/
def State.checked (s : State) (pa : Nat) : Word × EccStatus :=
  if !s.plat.atcPresent || s.ca2At 7 then (s.mem.word pa, .ok) else eccDecode (s.mem.word pa) (s.mem.errAt pa)

/-- `ecc_read` of an installed word (20 R209): the Syndrome Register takes the check bits if `loads` (11 R131); bit 17 says
whether an error was found, 0 with ECC disabled. -/
def State.eccRead (s : State) (loads : Bool) (pa : Nat) : (Word × EccStatus) × State :=
  (s.checked pa,
    if s.plat.atcPresent then
      { s with atc := { s.atc with
        syn := if loads then checkBits (s.mem.word pa) ^^^ s.mem.errAt pa else s.atc.syn
        synEr := (s.checked pa).2 != .ok } }
    else s)

/-- The word written with its check bits: generated, or the Syndrome Register while it is locked (20 R208; 11 R131; log 13). -/
def State.writeWord (s : State) (pa : Nat) (d : Word) : State :=
  if s.plat.atcPresent && s.atc.synLock then
    { s with mem := (s.mem.setWord pa d).setErr pa (s.atc.syn ^^^ checkBits d) }
  else
    { s with
      mem := (s.mem.setWord pa d).setErr pa 0#7
      atc := if s.plat.atcPresent then { s.atc with syn := checkBits d } else s.atc }

/-- The word a fetch delivers, decided now (20 R197, R200 (b), R210, R211). -/
def State.fetchWord (s : State) (t : Target) : Fetched × State :=
  if s.beyond t then
    let (w, s) := s.drawWord
    if s.plat.atcPresent then
      let (b, s) := s.drawByte
      let s := { s with atc := { s.atc with syn := b.extractLsb' 0 7, md := w } }
      if s.ca2At 7 then ({ word := w, status := .ok }, { s with atc := { s.atc with synEr := false } })
      else ({ word := w, status := .uncorrectable }, { s with atc := { s.atc with synEr := true } })
    else ({ word := w, status := .ok }, s)
  else
    let ((d, e), s) := s.eccRead true (s.physical t)
    if e = .uncorrectable then
      let (w, s) := s.drawWord
      ({ word := w, status := e }, { s with atc := { s.atc with md := w } })
    else ({ word := d, status := e }, if s.plat.atcPresent then { s with atc := { s.atc with md := d } } else s)

/-- The read of a partial store loads the Syndrome Register: always, or on some machines not while it is locked (20 R203, R209; 11
R131; log 13). -/
def State.partialReadLoads (s : State) : Bool := s.plat.lockedReadLoads || !s.atc.synLock

/-- A full or partial store (20 R197, R203, R211). -/
def State.storeWord (s : State) (t : Target) (tags : Digit) (d : Word) : State :=
  let s := if s.plat.atcPresent then { s with atc := { s.atc with pd := d } } else s
  if s.beyond t then s
  else if tags = 0xF#4 then s.writeWord (s.physical t) d
  else
    let ((old, e), s) := s.eccRead s.partialReadLoads (s.physical t)
    let s := (if s.plat.atcPresent then { s with atc := { s.atc with md := old } } else s).signalError e
    if e = .uncorrectable then s else s.writeWord (s.physical t) (mergeBytes tags old d)

/-! ### Real messages -/

/-- A real fetch message: `RAR` latches the whole address word `bus` (11 R134), then the word is read. -/
def State.realFetch (s : State) (byCpc : Bool) (bus : Word) (t : Target) : Fetched × State :=
  let s := s.atcReceived
  let s := if s.plat.atcPresent then { s with atc := { s.atc with rar := bus } } else s
  (s.setSeq .realFetch byCpc).fetchWord t

/-- A real store message; `RAR` is not loaded (11 R134). -/
def State.realStore (s : State) (byCpc : Bool) (t : Target) (tags : Digit) (d : Word) : State :=
  ((s.atcReceived).setSeq (if tags = 0xF#4 then .realFullStore else .realPartialStore) byCpc).storeWord t tags d

/-- A refresh begins: the request is served, `RAR` takes the address from TOD (20 R212; 22 R289; log 15). -/
def State.startRefresh (s : State) : State :=
  let s := (s.atcReceived).setSeq .refresh false
  { s with atc := { s.atc with refReq := false, rar := 0b0001#4 ++ 0#4 ++ s.atc.tod.extractLsb' 2 22 ++ 0#2 } }

/-- The installed word that a refresh scrubs (20 R212; 92 D25). -/
def State.refreshPlace (s : State) : Nat := (s.atc.tod.extractLsb' 2 22).toNat % s.memWords

/-- One word scrubbed; MD latches the word as corrected (20 R212; 22 R289; log 15). The model's choice (log 15): the Syndrome Register
keeps the check bits that the read has loaded (20 R209, R212), and the write-back does not latch those it generates, unlike a store. -/
def State.refreshWord (s : State) : State :=
  let pa := s.refreshPlace
  let ((d, e), t) := s.startRefresh.eccRead true pa
  let t := ({ t with atc := { t.atc with md := d } } : State).signalError e
  if e = .uncorrectable then t else { t with mem := (t.mem.setWord pa d).setErr pa 0#7 }

/-! ### Translation (21) -/

/-- `PSR` is one of the three page sizes (11 R136). -/
def State.pageSizeOk (s : State) : Bool := s.atc.psr == 0b001#3 || s.atc.psr == 0b010#3 || s.atc.psr == 0b100#3

/-- `eff(a)`: byte 0 cleared while `CA2.5` is 0 (21 R223, R224). -/
def State.eff (s : State) (a : Word) : Word := if s.ca2At 5 then a else 0#8 ++ a.extractLsb' 0 24

/-- The bits of the 22-bit page number that the page size compares (21 R223). -/
def State.vpnMask (s : State) : BitVec 22 :=
  if s.atc.psr = 0b010#3 then 0x3FFFFF#22 else if s.atc.psr = 0b001#3 then 0x3FFFFE#22 else 0x3FFFFC#22

/-- `vpn_eq`, the bits of `ignore` left out (21 R223, R251). -/
def State.vpnEq (s : State) (ignore : BitVec 22) (e : AmEntry) (a : Word) : Bool :=
  ((e.vpn ^^^ (s.eff a).extractLsb' 10 22) &&& s.vpnMask &&& ~~~ignore) == 0#22

/-- The entries from number `n` on that are valid and match (21 R223, R229). -/
def State.hitsFrom (s : State) (a : Word) : Nat → List AmEntry → List Nat
  | _, [] => []
  | n, e :: es => (if !e.ir && s.vpnEq 0#22 e a then [n] else []) ++ s.hitsFrom a (n + 1) es

/-- `hit(a)`: the indexes of the entries that match. -/
def State.hits (s : State) (a : Word) : List Nat := s.hitsFrom a 0 s.atc.am.toList

/-- Entry `i`, counted from 0. -/
def State.entry (s : State) (i : Nat) : AmEntry := s.atc.am.toList.getD i AmEntry.empty

/-- Every entry changed by `f`. -/
def mapAm (f : AmEntry → AmEntry) (v : Vector AmEntry 16) : Vector AmEntry 16 :=
  ⟨⟨v.toList.map f⟩, by simp⟩

/-- Entry `i`, counted from 0, replaced. -/
def State.setEntry (s : State) (i : Nat) (e : AmEntry) : State :=
  { s with atc := { s.atc with am := s.atc.am.setIfInBounds i e } }

/-- `real(a, i)`: the real address bits 24 to 1 (21 R230). -/
def State.realAddress (s : State) (a : Word) (e : AmEntry) : BitVec 24 :=
  e.pfn.extractLsb' 2 12 ++
  bit1 (if s.atc.psr = 0b010#3 then bitAt e.pfn 2 else bitAt a 12) ++
  bit1 (if s.atc.psr = 0b100#3 then bitAt a 11 else bitAt e.pfn 1) ++
  a.extractLsb' 0 10

/-- The protection bit a code asks for: 00 R, 01 W, 11 E, 10 L (21 R225). -/
def permits (set : Digit) (pc : BitVec 2) : Bool :=
  if pc = 0#2 then bitAt set 4 else if pc = 1#2 then bitAt set 3 else if pc = 3#2 then bitAt set 2 else bitAt set 1

/-- `permitted(i, pc)` (21 R225). The model's choice (log 65): the Privilege Flag is the one before the X1 of the cycle. -/
def State.permitted (s : State) (e : AmEntry) (pc : BitVec 2) : Bool :=
  s.ca2At 6 || permits (if s.ca2At 1 then e.pcp else e.pcn) pc

/-- All RR bits are 1. -/
def allReferenced (v : Vector AmEntry 16) : Bool := v.toList.all fun e => e.rr

/-- `set_rr(i)` with its automatic reset (21 R232). -/
def State.setReferenced (s : State) (i : Nat) : State :=
  let am := s.atc.am.setIfInBounds i { s.entry i with rr := true }
  { s with atc := { s.atc with am := if allReferenced am then mapAm (fun e => { e with rr := false }) am else am } }

/-- `set_rr(i)` would set the sixteenth bit (70 R781). -/
def State.lastReference (s : State) (i : Nat) : Bool :=
  allReferenced (s.atc.am.setIfInBounds i { s.entry i with rr := true })

/-- `lru()`: the index, from 0, of the first entry whose RR bit is 0 (21 R232). -/
def State.lru (s : State) : Nat := s.atc.am.toList.findIdx fun e => !e.rr

/-- `amr_match(a)` (21 R241). -/
def State.amrMatch (s : State) (a : Word) : Bool :=
  if s.ca2At 5 then a.extractLsb' 2 30 == s.atc.amr.extractLsb' 2 30
  else a.extractLsb' 2 22 == s.atc.amr.extractLsb' 2 22

/-- The monitor conditions of a virtual message, as `ITA` bits (21 R222 (2), R240). -/
def State.monitored (s : State) (a : Word) (pc : BitVec 2) (store : Bool) : Half :=
  itaBit 8 (s.ca2At 2 && pc == 3#2 && s.amrMatch a) |||
  itaBit 7 (s.ca2At 3 && !s.ca2At 4 && !s.ca2At 8 && store && s.amrMatch a) |||
  itaBit 6 (s.ca2At 3 && s.ca2At 4 && !s.ca2At 8 && store && s.amrMatch a) |||
  itaBit 7 (s.ca2At 8 && !s.ca2At 3 && store)

/-- `RAR` and `DDR` loaded alike (11 R135). -/
def State.loadRar (s : State) (w : Word) : State := { s with atc := { s.atc with rar := w, ddr := w } }

/-- The page number bits of a real address word that a failed search leaves open: bits 24 to `lo` (21 R222; 93 U11). -/
def State.frameMask (s : State) : Word :=
  if s.atc.psr = 0b010#3 then 0x00FFFC00 else if s.atc.psr = 0b001#3 then 0x00FFF800 else 0x00FFF000

/-- Step (1) of the virtual operation and the copy for the execute monitor (21 R222). -/
def State.latchVirtual (s : State) (a : Word) (pc : BitVec 2) : State :=
  { s with atc := { s.atc with
    varb := s.eff a
    amr := if s.ca2At 4 && pc == 3#2 then s.eff a else s.atc.amr
    rrResetting := false } }

/-- What a virtual operation does after its checks: the target it goes on to, or `none` if it is stopped, and the state
(21 R222). The model's choice (log 64): a store whose Access Violation is masked counts as one that passed the protection check, so that
it takes the changed page step. -/
def State.translate (s : State) (a : Word) (pc : BitVec 2) (tags : Digit) : Except Refusal (Option Target × State) :=
  let store := tags != 0#4
  let mon := s.monitored a pc store
  let stopped := s.unmasked mon != 0#16
  let s := (s.latchVirtual a pc).post mon
  if s.ca2At 9 then
    .ok (if stopped then none else some { scratch := false, wa := a.extractLsb' 2 22 },
      s.loadRar (a.extractLsb' 28 4 ++ tags ++ a.extractLsb' 0 24))
  else
    match s.hits a with
    | [] =>
      if bitAt s.atc.imr 10 then .error .maskedNoMatch
      else
        let (w, s) := (s.post (itaBit 10 true)).drawWord
        let low := (w &&& s.frameMask) ||| (a &&& ~~~s.frameMask)
        .ok (none, s.loadRar (s.atc.rar.extractLsb' 28 4 ++ tags ++ low.extractLsb' 0 24))
    | [i] =>
      let e := s.entry i
      let s := s.setReferenced i
      let r := s.realAddress a e
      let s := s.loadRar (s.atc.rar.extractLsb' 28 4 ++ tags ++ r.extractLsb' 2 22 ++ pc)
      let violation := itaBit 11 (!s.permitted e pc)
      let refused := s.unmasked violation != 0#16
      let first := !refused && store && !e.cp
      let s := s.post violation
      let s := if first then s.setEntry i { s.entry i with cp := true } else s
      let stopped := stopped || refused || s.unmasked (itaBit 9 first) != 0#16
      let s := s.post (itaBit 9 first)
      .ok (if stopped then none else some { scratch := false, wa := r.extractLsb' 2 22 }, s)
    | _ => .error .multipleHits

/-- A virtual message up to its real half: the cases the spec refuses, then the translation (21 R222; 93 U10, U12, U46). The
protection code takes the place of address bits 2 and 1. -/
def State.virtualOp (s : State) (a : Word) (pc : BitVec 2) (tags : Digit) : Except Refusal (Option Target × State) :=
  if !s.plat.atcPresent then .error .virtualWithoutAtc
  else if s.ca2At 2 && s.ca2At 4 then .error .monitorConflict
  else if !s.ca2At 9 && s.atc.rrResetting then .error .referencedHazard
  else if !s.ca2At 9 && !s.pageSizeOk then .error .pageSizeInvalid
  else s.translate (a.extractLsb' 2 30 ++ pc) pc tags

/-! ### What a CPC instruction sends -/

/-- The CPC takes the bus: a fetched word not yet received goes by; if it was uncorrectable the ATC has seen it (40 R361;
60 R714). -/
def State.dropFetch (s : State) : State :=
  match s.cpc.fetch with
  | some { data := some w, age := _ } =>
    let s := if w.status = .uncorrectable then s.memoryErrorTrap else s.signalError w.status
    { s with cpc := { s.cpc with fetch := none } }
  | _ => { s with cpc := { s.cpc with fetch := none } }

/-- A fetch is outstanding that will deliver `d`, or nothing if it was aborted (40 R361). -/
def State.pendFetch (s : State) (d : Option Fetched) : State :=
  { s with cpc := { s.cpc with fetch := some { data := d, age := 0 } } }

/-- `PMfetch(real, a)` or `PMfetch(scratch, n)` by the CPC (20 R197). -/
def State.cpcRealFetch (s : State) (t : Target) : State :=
  let (f, s) := s.dropFetch.realFetch true t.busWord t
  s.pendFetch (some f)

/-- `PMstore(real, a, tags, d)` or `PMstore(scratch, n, 1111, d)` by the CPC (20 R197). -/
def State.cpcRealStore (s : State) (t : Target) (tags : Digit) (d : Word) : State := s.dropFetch.realStore true t tags d

/-- The sequencer state of a virtual operation (11 R141). -/
def State.virtualSeq (s : State) (tags : Digit) : AtcSeq :=
  match s.ca2At 9, decide (tags = 0#4), decide (tags = 0xF#4) with
  | false, true, _ => .virtualFetch
  | false, _, true => .virtualFullStore
  | false, _, _ => .virtualPartialStore
  | true, true, _ => .verFetch
  | true, _, true => .verFullStore
  | true, _, _ => .verPartialStore

/-- The cycle of a virtual message in the memory sequencer; unless the operation was stopped its real state follows (11 R141). -/
def State.sequence (s : State) (tags : Digit) (goesOn : Bool) : State :=
  { s with atc := { s.atc with seq := s.virtualSeq tags, seqGoesOn := goesOn, cpcInitiated := true } }

/-- `PMfetch(virtual, a, pc)` by the CPC (20 R197; 21 R222). -/
def State.cpcVirtualFetch (s : State) (a : Word) (pc : BitVec 2) : Except Refusal State :=
  match s.dropFetch.virtualOp a pc 0#4 with
  | .error r => .error r
  | .ok (none, s) => .ok ((s.sequence 0#4 false).pendFetch none)
  | .ok (some t, s) =>
    let (f, s) := (s.sequence 0#4 true).fetchWord t
    .ok (s.pendFetch (some f))

/-- `PMstore(virtual, a, tags, d)` by the CPC (20 R197; 21 R222). -/
def State.cpcVirtualStore (s : State) (a : Word) (tags : Digit) (d : Word) : Except Refusal State :=
  match s.dropFetch.virtualOp a 1#2 tags with
  | .error r => .error r
  | .ok (none, s) => .ok { s.sequence tags false with atc := { (s.sequence tags false).atc with pd := d } }
  | .ok (some t, s) => .ok ((s.sequence tags true).storeWord t tags d)

/-! ### Associative memory commands (21 section 6) -/

/-- The word `w` with a protection set at the bits `r`, `w'`, `e` and `l`. -/
def putSet (w : Word) (r w' e l : Nat) (p : Digit) : Word :=
  putBit (putBit (putBit (putBit w r (bitAt p 4)) w' (bitAt p 3)) e (bitAt p 2)) l (bitAt p 1)

/-- The protection set at the bits `r`, `w'`, `e` and `l` of a word. -/
def getSet (w : Word) (r w' e l : Nat) : Digit := bit1 (bitAt w r) ++ bit1 (bitAt w w') ++ bit1 (bitAt w e) ++ bit1 (bitAt w l)

/-- The descriptor word of an entry over the old word `w`, whose X bits stay (11 R139; log 16). -/
def PdLayout.word (p : PdLayout) (w : Word) (e : AmEntry) : Word :=
  let w := w.extractLsb' 24 8 ++ e.pfn ++ w.extractLsb' 0 10
  let w := putSet (putSet w p.pcpR p.pcpW p.pcpE p.pcpL e.pcp) p.pcnR p.pcnW p.pcnE p.pcnL e.pcn
  putBit (putBit w p.ir e.ir) p.cp e.cp

/-- The entry `e` with the descriptor fields of the word `d`, the Invalid Register bit apart (11 R139). -/
def PdLayout.load (p : PdLayout) (d : Word) (e : AmEntry) : AmEntry :=
  { e with
    pcp := getSet d p.pcpR p.pcpW p.pcpE p.pcpL
    pcn := getSet d p.pcnR p.pcnW p.pcnE p.pcnL
    pfn := d.extractLsb' 10 14
    cp := bitAt d p.cp }

/-- IAM (R245). -/
def State.invalidateAll (s : State) : State :=
  { s with atc := { s.atc with am := mapAm (fun e => { e with ir := true, rr := false }) s.atc.am } }

/-- CAM (R248). -/
def State.clearReferenced (s : State) : State :=
  { s with atc := { s.atc with am := mapAm (fun e => { e with rr := false }) s.atc.am } }

/-- The descriptor of entry `i` to `RAR` and `DDR`. -/
def State.showDescriptor (s : State) (i : Nat) : State := s.loadRar (s.plat.pdLayout.word s.atc.rar (s.entry i))

/-- RR of entry `i` set by ESPF or WSPF, with the hazard flag (21 R232; 70 R781). -/
def State.referenceByCommand (s : State) (i : Nat) : State :=
  let last := s.lastReference i
  let s := s.setReferenced i
  { s with atc := { s.atc with rrResetting := last } }

/-- ESPF (R246); the word it transfers is drawn by the caller. -/
def State.espf (s : State) : Except Refusal State :=
  if s.atc.rrResetting then .error .referencedHazard
  else .ok ((s.showDescriptor s.lru).referenceByCommand s.lru)

/-- WVP (R247). -/
def State.writeVirtualPage (s : State) (d : Word) : Except Refusal State :=
  if !s.pageSizeOk then .error .pageSizeInvalid
  else
    let i := s.lru
    let s := s.atcReceived.showDescriptor i
    .ok (s.setEntry i { s.entry i with vpn := (s.eff d).extractLsb' 10 22, ir := true })

/-- WSPF (R249). -/
def State.writePageFrame (s : State) (d : Word) : Except Refusal State :=
  if s.atc.rrResetting then .error .referencedHazard
  else if !s.pageSizeOk then .error .pageSizeInvalid
  else
    let i := s.lru
    let e := s.plat.pdLayout.load d (s.entry i)
    .ok ((s.setEntry i { e with ir := false }).referenceByCommand i)

/-- PS and PSM: the entries that match `d` outside `ignore` are purged (R250, R251). -/
def State.purge (s : State) (ignore : BitVec 22) (d : Word) : Except Refusal State :=
  if !s.pageSizeOk then .error .pageSizeInvalid
  else
    let f := fun e : AmEntry => if s.vpnEq ignore e d then { e with ir := true, rr := false } else e
    let s := s.atcReceived
    .ok { s with atc := { s.atc with am := mapAm f s.atc.am, reqsOnce := true } }

/-- TVA (R252). Without a match the page frame bits of `RAR` are free, its displacement is that of the data (93 U11), and `DDR` is
free. A page that is not permitted posts bit 11, on machines where a TVA does (21 R252, against 60 R711; log 22). -/
def State.translateOnly (s : State) (d : Word) : Except Refusal State :=
  if s.atc.rrResetting then .error .referencedHazard
  else if !s.pageSizeOk then .error .pageSizeInvalid
  else
    let s := { s with atc := { s.atc with varb := s.eff d, reqsOnce := true } }
    match s.hits d with
    | [] =>
      let (w, s) := (s.post (itaBit 10 true)).drawWord
      let low := (w &&& s.frameMask) ||| (d &&& ~~~s.frameMask)
      let (v, s) := s.drawWord
      .ok { s with atc := { s.atc with rar := s.atc.rar.extractLsb' 24 8 ++ low.extractLsb' 0 24, ddr := v } }
    | [i] =>
      let e := s.entry i
      let s := s.setReferenced i
      let s := s.loadRar (s.atc.rar.extractLsb' 24 8 ++ (s.realAddress d e).extractLsb' 2 22 ++ d.extractLsb' 0 2)
      .ok (s.post (itaBit 11 (s.plat.tvaPosts && !s.permitted e (d.extractLsb' 0 2))))
    | _ => .error .multipleHits

/-! ### External registers (20 R190; 11 R122) -/

/-- `BIN` loaded (11 R130; 60 R705). -/
def State.loadBin (s : State) (d : Word) : State :=
  let s := { s with atc := { s.atc with bin := d, binFull := true } }
  if s.unmasked (itaBit 5 true) = 0#16 then s
  else if s.atc.itaRead then { s with atc := { s.atc with binPending := true } }
  else s.post (itaBit 5 true)

/-- A write message to `BIN`: taken only while `BIN` is empty (11 R130; 22 R279). -/
def State.writeBin (s : State) (d : Word) : State := if s.atc.binFull then s else s.loadBin d

/-- The bits of `ITA` that exist: 4 to 14 and 16 (11 R125). -/
def itaImplemented : Half := 0xBFF8

/-- A TOE to `ITA` (11 R126; 60 R705, R714). A bit 4 that it clears is not set before the next X1 (60 R704). -/
def State.writeIta (s : State) (d : Word) : State :=
  let ita := rightHalf d &&& itaImplemented
  { s with atc := { s.atc with
    ita := if s.atc.binPending then putBit ita 5 true else ita
    itaRead := false
    binPending := false
    reqs := s.atc.reqs && bitAt ita 14
    todHold := s.atc.todHold || bitAt s.atc.ita 4 && !bitAt ita 4 } }

/-- A write message to an ERU number (11 R122); a number without a device changes nothing (20 R191). A full
`BIN` drops it (11 R130), or takes that of the CPC on machines that follow 22 R279 (log 21). -/
def State.eruWrite (s : State) (n : BitVec 7) (d : Word) : Except Refusal State :=
  let r := s.atcReceived
  if !s.plat.atcPresent then .ok s
  else match n.toNat with
    | 40 => .ok { r with atc := { r.atc with ca2 := rightHalf d } }
    | 41 => .ok (r.writeIta d)
    | 42 => .ok { r with atc := { r.atc with imr := rightHalf d } }
    | 43 => .ok { r with atc := { r.atc with itmr := d, todHold := true } }
    | 44 => .ok { r with atc := { r.atc with tod := d, todHold := true } }
    | 45 => .ok { r with atc := { r.atc with amr := d } }
    | 46 => .ok (if r.plat.binGuardsCpc then r.writeBin d else r.loadBin d)
    | 47 => .ok { r with atc := { r.atc with psr := d.extractLsb' 0 3 } }
    | 48 => .ok r.invalidateAll
    | 49 => .ok { r with atc := { r.atc with syn := d.extractLsb' 24 7, synLock := true } }
    | 50 => s.writeVirtualPage d
    | 51 => s.writePageFrame d
    | 52 => s.purge 0#22 d
    | 53 => .ok { r with atc := { r.atc with pmr := d.extractLsb' 10 22 } }
    | 54 => s.purge s.atc.pmr d
    | 55 => s.translateOnly d
    | _ => .ok r

/-- The word that a read of an unassigned number delivers (20 R191). -/
def State.readNothing (s : State) : Word × State := s.drawWord

/-- A read message to an ERU number: the word and the state (11 R122). -/
def State.eruRead (s : State) (n : BitVec 7) : Except Refusal (Word × State) :=
  let r := s.atcReceived
  if !s.plat.atcPresent then .ok s.readNothing
  else match n.toNat with
    | 40 => .ok (s.atc.ca2.setWidth 32, r)
    | 41 => .ok (s.atc.ita.setWidth 32, { r with atc := { r.atc with itaRead := true } })
    | 42 => .ok (s.atc.imr.setWidth 32, r)
    | 43 => .ok (s.atc.itmr, r)
    | 44 => .ok (s.atc.tod, r)
    | 45 => .ok (s.atc.amr, r)
    | 46 => .ok (s.atc.bin, { r with atc := { r.atc with binFull := false } })
    | 47 => .ok (s.atc.psr.setWidth 32, r)
    | 48 => match s.espf with
      | .error x => .error x
      | .ok t => .ok t.readNothing
    | 49 => .ok (0#1 ++ s.atc.syn ++ 0#7 ++ bit1 s.atc.synEr ++ 0#16, { r with atc := { r.atc with synLock := false } })
    | 50 => .ok (s.atc.ddr, r)
    | 51 => .ok r.clearReferenced.readNothing
    | 53 => .ok (s.atc.pmr ++ 0#10, r)
    | 54 => if s.pageSizeOk then .ok (s.atc.varb, r) else .error .pageSizeInvalid
    | 55 => .ok (s.atc.rar, r)
    | _ => .ok r.readNothing

/-- A write message to port `64 + p`: the Maintenance Control Register, if the breakpoint hardware is there (60 R730). -/
def State.portWrite (s : State) (p : BitVec 6) (d : Word) : State :=
  if s.plat.bkptHw && s.plat.mcrPort == p then
    { s.atcReceived with bkpt := { s.bkpt with
      enable := bitAt d s.plat.mcrEnableBit
      trap := s.bkpt.trap && bitAt d s.plat.mcrTrapBit } }
  else s.atcReceived

/-- A read message to port `64 + p`: the Maintenance Status Register, the other bits free (60 R730), or no device (20 R191). -/
def State.portRead (s : State) (p : BitVec 6) : Word × State :=
  let (w, t) := s.atcReceived.readNothing
  if s.plat.bkptHw && s.plat.mcrPort == p then
    (putBit (putBit w s.plat.mcrEnableBit s.bkpt.enable) s.plat.mcrTrapBit s.bkpt.trap, t)
  else (w, t)

end Sys2Proof.Machine
end

