-- ==== Sys2Proof/Machine/MemoryInstr.lean ====
section
/-! DEFINITION. The meanings of the memory instructions (40). -/

namespace Sys2Proof.Machine

/-- An operation's answer as the answer of the instruction. -/
def settle (o : Except Refusal State) (f : State → State) : Result :=
  match o with
  | .ok s => .next (f s)
  | .error r => .refused r

/-- `fetch_pc`: Execute for an address in the MARS7 address register, else Read (R361). -/
def fetchCode (k : RsuNum) : BitVec 2 := if k = 14#4 then 3#2 else 0#2

/-- `capture_SR` of a virtual fetch (R364). -/
def State.captureFetch (s : State) (pc : BitVec 2) : State := s.setSr (pc ++ s.cpc.sr.extractLsb' 0 14)

/-- `capture_SR` of a virtual store (R364). -/
def State.captureStore (s : State) (r : RsuNum) (tags : Digit) : State :=
  s.setSr (1#2 ++ r ++ tags ++ s.cpc.sr.extractLsb' 0 6)

/-- A fetch at the address `a`: virtual if AT is on, else real; then `f` (R361, R362, R364). -/
def fetchAt (s : State) (a : Word) (pc : BitVec 2) (f : State → State) : Result :=
  if s.ca1At 12 then settle (s.cpcVirtualFetch a pc) fun t => f (t.captureFetch pc)
  else .next (f (s.cpcRealFetch (s.realTarget a)))

/-- The tags of a store: J, or `M6WT` when J is 0000 (R363). -/
def State.storeTags (s : State) (j : Lit4) : Digit := if j = 0#4 then s.cpc.m6wt else j

/-- What `store_tags` changes: `WTR` loaded, `M6WT` cleared by a MARS6 store (R363). -/
def State.takeTags (s : State) (j : Lit4) (k : RsuNum) : State :=
  { s with cpc := { s.cpc with
    wtr := s.storeTags j
    m6wt := if k = 12#4 ∨ k = 13#4 then 0#4 else s.cpc.m6wt } }

/-- A store of the pair `k`, virtual if `virt`, else real; then `f`. Tags of 0000 are refused (R363; 93 U38). -/
def storePair (s : State) (virt : Bool) (j : Lit4) (k : RsuNum) (f : State → State) : Result :=
  let tags := s.storeTags j
  if tags = 0#4 then .refused .noWriteTags
  else if virt then
    settle ((s.takeTags j k).cpcVirtualStore (s.rsu (evenOf k)) tags (s.rsu (oddOf k))) fun t =>
      f (t.captureStore (oddOf k) tags)
  else .next (f ((s.takeTags j k).cpcRealStore (s.realTarget (s.rsu (evenOf k))) tags (s.rsu (oddOf k))))

/-- MRR (R366): the operation the State Register describes, again; a store voids the next two words. With AT = 0 it is virtual all
the same (40 R362, R366), or real on machines that follow 20 R180, 21 R220 and 22 R283 (log 51). -/
def execMrr (k : RsuNum) (s : State) : Result :=
  let pc := s.cpc.sr.extractLsb' 14 2
  let tags := s.cpc.sr.extractLsb' 6 4
  let d := s.rsu (s.cpc.sr.extractLsb' 10 4)
  let virt := s.ca1At 12 || s.plat.mrrIgnoresAt
  if pc = 1#2 then
    if tags = 0#4 then .refused .noWriteTags
    else if virt then settle (s.cpcVirtualStore (s.rsu k) tags d) fun t => t.void 2
    else .next ((s.cpcRealStore (s.realTarget (s.rsu k)) tags d).void 2)
  else if virt then settle (s.cpcVirtualFetch (s.rsu k) pc) id
  else .next (s.cpcRealFetch (s.realTarget (s.rsu k)))

/-- FR (R367). -/
def execFr (k : RsuNum) (s : State) : Result := .next (s.cpcRealFetch (s.realTarget (s.rsu k)))

/-- F (R368). -/
def execF (k : RsuNum) (s : State) : Result := fetchAt s (s.rsu k) (fetchCode k) id

/-- LFA (R369). -/
def execLfa (j k : RsuNum) (s : State) : Result :=
  fetchAt s (s.rsu k) (fetchCode k) fun t => t.setRsu j (s.rsu k + 4)

/-- LFAL (R370): the Linkage code. -/
def execLfal (j k : RsuNum) (s : State) : Result := fetchAt s (s.rsu k) 2#2 fun t => t.setRsu j (s.rsu k + 4)

/-- LFD (R371). -/
def execLfd (j k : RsuNum) (s : State) : Result :=
  fetchAt s (s.rsu k) (fetchCode k) fun t => t.setRsu j (s.rsu k - 4)

/-- FL (R372): scratch pad words 0 to 63. -/
def execFl (a : BitVec 6) (s : State) : Result := .next (s.cpcRealFetch (scratchTarget (0#1 ++ a)))

/-- SR (R373). -/
def execSr (j : Lit4) (k : RsuNum) (s : State) : Result := storePair s false j k id

/-- S (R374). -/
def execS (j : Lit4) (k : RsuNum) (s : State) : Result := storePair s (s.ca1At 12) j k id

/-- SA (R375). -/
def execSa (j : Lit4) (k : RsuNum) (s : State) : Result :=
  storePair s (s.ca1At 12) j k fun t => t.setRsu (evenOf k) (s.rsu (evenOf k) + 4)

/-- SD (R376). -/
def execSd (j : Lit4) (k : RsuNum) (s : State) : Result :=
  storePair s (s.ca1At 12) j k fun t => t.setRsu (evenOf k) (s.rsu (evenOf k) - 4)

/-- SL (R377): a full store to scratch pad words 0 to 63. -/
def execSl (a : BitVec 6) (k : RsuNum) (s : State) : Result :=
  .next (s.cpcRealStore (scratchTarget (0#1 ++ a)) 0xF#4 (s.rsu k))

end Sys2Proof.Machine
end

