-- ==== Sys2Proof/Machine/Misc.lean ====
section
/-! DEFINITION. The meanings of the miscellaneous instructions (47). -/

namespace Sys2Proof.Machine

/-- EAF (R672): the literal to ERU 63, I7 and EACA set. -/
def execEaf (lit : Byte) (s : State) : Result :=
  settle (s.dropFetch.eruWrite 63#7 (lit.setWidth 32)) fun t => (t.setIndAt 7 true).setCa1At 14 true

/-- WPMB (R673): nothing, but it needs the bus, so a fetched word not yet received goes by (40 R361). -/
def execWpmb (s : State) : Result := .next s.dropFetch

/-- The destination of RCV (R674). -/
def State.rcvDest (s : State) (j : RsuNum) (k : Lit4) : RsuNum := if bitAt k 2 then s.cpc.sr.extractLsb' 10 4 else j

/-- The word RCV takes, its status, and the state after: the word of the outstanding fetch, also where a trap or an interrupt has
released the RCV before DIE came, or a free word when none is coming (40 R361; 70 R796; 92 D40). -/
def State.receive (s : State) : Fetched × State :=
  match s.cpc.fetch with
  | some { data := some w, age := _ } => (w, { s with cpc := { s.cpc with fetch := none } })
  | _ => ({ word := s.dropFetch.drawWord.1, status := .ok }, s.dropFetch.drawWord.2)

/-- RCV (R674): the wait for data is the step's (40 R361); an uncorrectable word raises the memory error trap (60 R714). -/
def execRcv (j : RsuNum) (k : Lit4) (s : State) : Result :=
  let dest := s.rcvDest j k
  let (w, t) := s.receive
  let t := if bitAt k 1 && t.ca1At 12 then
      t.setSr (t.cpc.sr.extractLsb' 14 2 ++ oddOf j ++ t.cpc.sr.extractLsb' 0 10)
    else t
  let t := if w.status = .uncorrectable then t.memoryErrorTrap else t.signalError w.status
  .next (t.setRsu dest w.word)

/-- SC (R676). -/
def execSc (lit : Byte) (s : State) : Result := .next (s.setCa1 (s.cpc.ca1 ||| lit))

/-- RC (R677). -/
def execRc (lit : Byte) (s : State) : Result := .next (s.setCa1 (s.cpc.ca1 &&& ~~~lit))

/-- SCO (R678). -/
def execSco (s : State) : Result := .next (s.setIndAt 4 true)

/-- RIZ (R679). -/
def execRiz (s : State) : Result := .next (((s.setIndAt 4 false).setIndAt 5 false).setIndAt 6 false)

/-- RTI (R680): one step of the return; the FIFO restarts only when no trap or interrupt is being recognised (log 17). K bits 4 and 3
are ignored (90 C17). -/
def execRti (jc : BitVec 2) (kc : Lit4) (s : State) : Result :=
  let restarts := bitAt kc 2 && s.wanted.isNone
  if restarts && s.cpc.ca1.extractLsb' 6 2 == 3#2 then .refused .skipCountThree
  else
    let t := if bitAt kc 2 then s else s.setFifoRun false
    let t := (t.presentBkpt (bitAt jc 2) (bitAt jc 1)).restore
    let t := if bitAt kc 1 then (t.setCa1At 11 false).setCa1At 10 true else t
    .next (if restarts then t.restart else t)

/-- LINK (R681). -/
def execLink (jr : JrNum) (k : Lit4) (s : State) : Result := .next (s.setJr jr (s.csa + k.setWidth 16))

/-- LINKM (R682). -/
def execLinkm (jr : JrNum) (k : Lit4) (s : State) : Result := .next (s.setJr jr (s.csa - k.setWidth 16))

/-- A digit as an ASCII byte: zone 3 for a number, 2 otherwise (R683). -/
def unpackDigit (d : Digit) : Byte := (if d.toNat ≤ 9 then 3#4 else 2#4) ++ d

/-- UPKL (R683). -/
def execUpkl (j k : ByteAddr) (s : State) : Result :=
  .next (s.setByteOp k (unpackDigit (leftDigit (s.byteOp j))))

/-- UPKR (R684). -/
def execUpkr (j k : ByteAddr) (s : State) : Result :=
  .next (s.setByteOp k (unpackDigit (rightDigit (s.byteOp j))))

end Sys2Proof.Machine
end

