-- ==== Sys2Proof/Machine/Setup.lean ====
section
/-! DEFINITION. The meanings of the setup and emulation instructions (46), over the open record `SETUP_DECODE` (92 D36). -/

namespace Sys2Proof.Machine

/-! ### Registers -/

/-- Setup Register 1 replaced. -/
def State.setSur1 (s : State) (v : Half) : State := { s with cpc := { s.cpc with sur1 := v } }

/-- Setup Register 2 replaced. -/
def State.setSur2 (s : State) (v : Half) : State := { s with cpc := { s.cpc with sur2 := v } }

/-- Setup Register 5 replaced. -/
def State.setSur5 (s : State) (v : Byte) : State := { s with cpc := { s.cpc with sur5 := v } }

/-- Operand Pointer 1 replaced. -/
def State.setOptr1 (s : State) (v : Byte) : State := { s with cpc := { s.cpc with optr1 := v } }

/-- Operand Pointer 2 replaced. -/
def State.setOptr2 (s : State) (v : Byte) : State := { s with cpc := { s.cpc with optr2 := v } }

/-- The low byte of a halfword. -/
def lowByte (h : Half) : Byte := h.extractLsb' 0 8

/-- The high byte of a halfword. -/
def highByte (h : Half) : Byte := h.extractLsb' 8 8

/-- The low digit of a halfword. -/
def lowDigit (h : Half) : Digit := h.extractLsb' 0 4

/-- Bits 8 to 5 of a halfword. -/
def secondDigit (h : Half) : Digit := h.extractLsb' 4 4

/-- Bits 16 to 13 of a halfword. -/
def topDigit (h : Half) : Digit := h.extractLsb' 12 4

/-! ### Pointers (R634, R635) -/

/-- A pointer to a virtual register, 110 and its number, in stack mode if `stack`. -/
def registerPointer (stack : Bool) (r : Digit) : Byte := bit1 stack ++ 0b110#3 ++ r

/-- `base_ptr` (R635): no base register is entry 112. -/
def basePointer (b : Digit) : Byte := 0b011#3 ++ bit1 (b == 0#4) ++ b

/-- `load_optr1_ibm` (R634). -/
def optr1Ibm (h : Half) : Byte := registerPointer false (secondDigit h)

/-- `load_optr1_nvm` (R634). -/
def optr1Nvm (h : Half) : Byte := registerPointer (secondDigit h == 15#4) (secondDigit h)

/-- `load_optr2_ibm`: for RX from `SUR2`, or from `SUR1` by `IBM_RX_OPTR2_SRC` (R635). -/
def State.optr2Ibm (s : State) (h : Half) : Byte :=
  if Config.ibmFormat h = .rx then basePointer (if s.plat.rxOptr2FromSur1 then lowDigit h else topDigit s.cpc.sur2)
  else registerPointer false (lowDigit h)

/-- `load_optr2_nvm` (R635). -/
def optr2Nvm (h : Half) : Byte :=
  if Config.nvmFormat h = .rm then
    let x : BitVec 3 := h.extractLsb' 0 3
    0b011#3 ++ (if x = 0#3 then 0b10000#5 else 0#2 ++ x)
  else registerPointer (lowDigit h == 15#4) (lowDigit h)

/-- `load_optr2_setna` (R635). -/
def optr2Setna (h : Half) : Byte := registerPointer (topDigit h == 15#4) (topDigit h)

/-! ### Addresses (R636) -/

/-- SBA and SBBA: the 8-bit vector of `SUR3`. -/
def State.baseA (s : State) : Byte := highByte s.cpc.sur3

/-- IBA and SABA. -/
def State.baseB (s : State) : Digit := secondDigit s.cpc.sur3

/-- EBA. -/
def State.baseC (s : State) : Digit := lowDigit s.cpc.sur3

/-- `Q`: the virtual opcode byte. -/
def State.virtualOpcode (s : State) : Byte := highByte s.cpc.sur1

/-- `nvm_setup_addr`, `b` for the B jump. -/
def State.nvmSetupAddr (s : State) (b : Bool) : Half := s.baseA ++ bit1 b ++ Config.nvmF s.cpc.sur1 ++ 0#4

/-- `nvm_exec_addr`. -/
def State.nvmExecAddr (s : State) : Half := s.baseC ++ s.virtualOpcode ++ 0#4

/-- `nvm_indir_addr`. -/
def State.nvmIndirAddr (s : State) : Half := s.baseB ++ s.virtualOpcode ++ 0#4

/-- The two bits that classify `IR`. -/
def State.vrxClass (s : State) : BitVec 2 :=
  if Config.vrxIR (lowByte s.cpc.sur1) = 0#6 then 1#2 else if Config.vrxIR (lowByte s.cpc.sur1) = 63#6 then 2#2 else 0#2

/-- `vrx_setupA_addr`. -/
def State.vrxSetupAAddr (s : State) : Half :=
  s.baseB ++ 0#3 ++ bit1 (bitAt s.virtualOpcode 8) ++ s.vrxClass ++ Config.vrxM (lowByte s.cpc.sur1) ++ 0#4

/-- `vrx_setupB_addr`. -/
def State.vrxSetupBAddr (s : State) : Half := s.baseA ++ s.vrxClass ++ Config.vrxM (lowByte s.cpc.sur1) ++ 0#4

/-- `vrx_exec_addr`. -/
def State.vrxExecAddr (s : State) : Half := s.baseC ++ 0#1 ++ s.virtualOpcode.extractLsb' 0 7 ++ 0#4

/-- `ibm_setup_addr`. -/
def State.ibmSetup (s : State) : Half := Config.ibmSetupAddr s.cpc.sur1 s.cpc.sur3

/-- `ibm_exec_addr`. -/
def State.ibmExec (s : State) : Half := Config.ibmExecAddr s.cpc.sur1 s.cpc.sur3

/-! ### Condition codes (R637) -/

/-- `ibm_cc_match`: mask bit 8 selects code 0 (R637; log 18). -/
def State.ibmMatch (s : State) : Bool :=
  let cc := (s.cpc.via.extractLsb' 0 2).toNat
  bitAt s.cpc.sur1 (8 - cc) && !(Config.ibmFormat s.cpc.sur1 == .rr && lowDigit s.cpc.sur1 == 0#4)

/-- C bit `n + 1` and the virtual indicator that faces it are both 1. -/
def State.nvmMatchBit (s : State) (n : BitVec 2) : Bool :=
  s.cpc.sur1.getLsbD n.toNat && s.cpc.via.getLsbD (Config.nvmCBit n).toNat

/-- `nvm_cc_match`. -/
def State.nvmMatch (s : State) : Bool := s.nvmMatchBit 0 || s.nvmMatchBit 1 || s.nvmMatchBit 2 || s.nvmMatchBit 3

/-! ### Setup jumps -/

/-- The loads of JMPIA and JMPIB from the halfword `h` (R631, R634, R635). -/
def State.loadIbm (s : State) (h : Half) : State :=
  (((s.setSur1 h).setSur5 (lowByte h)).setOptr1 (optr1Ibm h)).setOptr2 (s.optr2Ibm h)

/-- The loads of JMPNA and JMPNB from the halfword `h` (R631, R634, R635). -/
def State.loadNvm (s : State) (h : Half) : State :=
  (((s.setSur1 h).setSur5 (lowByte h)).setOptr1 (optr1Nvm h)).setOptr2 (optr2Nvm h)

/-- An A jump: to the BCT flow, on to `f` with an instruction present, or to the overflow fetch (R640, R643). -/
def State.setupJumpA (s : State) (jr : JrNum) (f : State → State) : Result :=
  if s.ca1At 9 then .next (s.jumpDelayed (s.jr jr))
  else if s.pointer 14 = 2#2 then .next ((f s).stepTwo s 15 false)
  else if s.pointer 14 = 0#2 then .next (s.jumpDelayed s.cpc.sur4)
  else .refused .oddSetupPointer

/-- JMPIA (R640). -/
def execJmpia (jr : JrNum) (k : RsuNum) (s : State) : Result :=
  s.setupJumpA jr fun s =>
    let t := s.loadIbm (rightHalf (s.rsu k))
    t.jumpDelayed t.ibmSetup

/-- C.C. MATCH for I6, which takes it in the cycle following (R637). -/
def State.matchLater (s : State) (b : Bool) : State := { s with pipe := { s.pipe with lateMatch := some b } }

/-- JMPIB (R641). -/
def execJmpib (k : RsuNum) (s : State) : Result :=
  let t := s.loadIbm (leftHalf (s.rsu k))
  let t := t.matchLater t.ibmMatch
  .next (match Config.ibmFormat t.cpc.sur1 with
    | .rr => t.jumpDelayed t.ibmExec
    | .rx => t.jumpDelayed t.ibmSetup
    | .other => t.jumpImmediate t.ibmSetup)

/-- JMPIC (R642). -/
def execJmpic (s : State) : Result := .next ((s.matchLater s.ibmMatch).jumpDelayed s.ibmExec)

/-- JMPNA (R643). -/
def execJmpna (jr : JrNum) (k : RsuNum) (s : State) : Result :=
  s.setupJumpA jr fun s =>
    let t := s.loadNvm (rightHalf (s.rsu k))
    t.jumpDelayed (if Config.nvmFormat t.cpc.sur1 = .rr2 then t.nvmExecAddr else t.nvmSetupAddr false)

/-- JMPNB (R644). -/
def execJmpnb (k : RsuNum) (s : State) : Result :=
  let t := s.loadNvm (leftHalf (s.rsu k))
  .next (match Config.nvmFormat t.cpc.sur1 with
    | .mm => t.jumpImmediate (t.nvmSetupAddr true)
    | .rm => t.jumpDelayed (t.nvmSetupAddr true)
    | .rr1 => t.jumpDelayed t.nvmExecAddr
    | .rr2 => t.jumpImmediate t.nvmExecAddr
    | .ri => t.jumpImmediate t.nvmExecAddr)

/-- JMPNC (R645). -/
def execJmpnc (s : State) : Result :=
  .next (if Config.nvmFormat s.cpc.sur1 = .rm ∧ bitAt s.cpc.sur1 4 = true then
      (s.jumpDelayed s.nvmIndirAddr).setSur1 (putBit s.cpc.sur1 4 false)
    else s.jumpDelayed s.nvmExecAddr)

/-- JMPVA (R646). -/
def execJmpva (s : State) : Result :=
  let t := s.setSur1 (leftHalf (s.rsu 15))
  .next (t.jumpDelayed t.vrxSetupAAddr)

/-- JMPVB (R647). -/
def execJmpvb (s : State) : Result :=
  let h := leftHalf (s.rsu 15)
  let t := (s.setSur1 (highByte s.cpc.sur1 ++ lowByte h)).setSur5 (highByte h)
  .next (t.jumpDelayed t.vrxSetupBAddr)

/-- JMPVC (R648). The model's choice (log 57): the zero test is of all sixteen bits of the tally. -/
def execJmpvc (s : State) : Result :=
  .next ((if s.cpc.tally = 0#16 then s.setTally 0x100 else s).jumpDelayed s.vrxExecAddr)

/-- JMPD (R649). -/
def execJmpd (k : RsuNum) (s : State) : Result :=
  let t := s.setSur1 (byteOf (s.rsu k) 0 ++ lowByte s.cpc.sur1)
  let a := highByte t.cpc.sur4 ++ Config.descVector t.virtualOpcode
  .next (if rightDigit t.virtualOpcode = 0#4 then t.jumpImmediate a else t.jumpDelayed a)

/-! ### Setup assists -/

/-- SETIA (R650); an odd byte pointer is refused (R633; 93 U33). With `j` = 14 the MARS7 pointer ends two further than it was, whatever
the displacement (log 41). -/
def execSetia (j k : RsuNum) (s : State) : Result :=
  let h := s.fhalf k
  let t := (s.setSur2 h).setOptr2 (basePointer (topDigit h))
  if s.oddPointer 15 then .refused .oddSetupPointer
  else .next ((t.setRsu j ((h.extractLsb' 0 12).setWidth 32)).stepTwo s 15 false)

/-- C.C. MATCH upon entering a SETNA: reset, on machines that follow 10 R59 and not 46 R651 alone (a parameter, log 50). -/
def State.enterSetna (s : State) : State := if s.plat.setnaResets then s.setIndAt 6 false else s

/-- SETNA (R651); an odd byte pointer and the RR formats are refused (R633; 93 U33, U35). With `j` = 14 the MARS7 pointer ends two
further than it was, whatever the result (log 41). I6 is the match in the RI format; in RM and MM it stays (R651), or is reset (10 R59), by
parameter (log 50). -/
def execSetna (j : RsuNum) (s : State) : Result :=
  let h := s.fhalf 15
  let t := (s.setSur2 h).enterSetna
  let narrow : Word := (h.extractLsb' 0 12).setWidth 32
  if s.oddPointer 15 then .refused .oddSetupPointer
  else match Config.nvmFormat t.cpc.sur1 with
    | .ri => .next (((t.setIndAt 6 t.nvmMatch).setRsu j (h.signExtend 32)).stepTwo s 15 false)
    | .rm => .next (((t.setOptr2 (optr2Setna h)).setRsu j narrow).stepTwo s 15 false)
    | .mm => .next (((t.setOptr2 (optr2Setna h)).setRsu j narrow).stepTwo s 15 false)
    | .rr1 => .refused .setnaFormat
    | .rr2 => .refused .setnaFormat

/-! ### Maps -/

/-- Bit `n` of a virtual indicator array becomes `v`, if the enable is on. -/
def mapBit (on : Bool) (n : Nat) (v : Bool) (a : Half) : Half := if on then putBit a n v else a

/-- MII (R652): CC0 is bit 1, CC1 bit 2. -/
def execMii (en : Byte) (s : State) : Result :=
  let a := mapBit (bitAt en 1) 1 (s.indAt 1) s.cpc.via
  let a := mapBit (bitAt en 3) 1 (!s.indAt 2) a
  let a := mapBit (bitAt en 2) 2 (s.indAt 3) a
  let a := mapBit (bitAt en 4) 2 (s.indAt 4) a
  let a := mapBit (bitAt en 5) 1 (s.indAt 4) (mapBit (bitAt en 5) 2 (s.indAt 4) a)
  .next (s.setVia (mapBit (bitAt en 6) 1 (s.indAt 5) (mapBit (bitAt en 6) 2 (s.indAt 5) a)))

/-- L, E and G: I1 to I3 to bits 1 to 3, under enables 1 to 3. -/
def State.mapOrder (s : State) (en : Byte) : Half :=
  mapBit (bitAt en 3) 3 (s.indAt 3) (mapBit (bitAt en 2) 2 (s.indAt 2) (mapBit (bitAt en 1) 1 (s.indAt 1) s.cpc.via))

/-- MIN (R653): O is bit 7. -/
def execMin (en : Byte) (s : State) : Result :=
  .next (s.setVia (mapBit (bitAt en 5) 7 (!s.indAt 4) (mapBit (bitAt en 4) 7 (s.indAt 4) (s.mapOrder en))))

/-- MIV (R654): O is bit 7, R bit 6. -/
def execMiv (en : Byte) (s : State) : Result :=
  let a := mapBit (bitAt en 5) 7 (s.indAt 5) (mapBit (bitAt en 4) 7 (s.indAt 4) (s.mapOrder en))
  .next (s.setVia (mapBit (bitAt en 7) 6 true (mapBit (bitAt en 6) 6 false a)))

/-! ### Setup transfers -/

/-- TSB (R655). -/
def execTsb (j : RsuNum) (s : State) : Result :=
  .next (s.setRsu j (withRight (s.rsu j) (0#8 ++ lowByte s.cpc.sur1)))

/-- TSLDC (R656). -/
def execTsldc (j : RsuNum) (s : State) : Result := .next (s.setRsu j ((secondDigit s.cpc.sur1).setWidth 32))

/-- TSRDC (R657). -/
def execTsrdc (j : RsuNum) (s : State) : Result := .next (s.setRsu j ((lowDigit s.cpc.sur1).setWidth 32))

/-- TSBC (R658). -/
def execTsbc (j : RsuNum) (s : State) : Result := .next (s.setRsu j ((lowByte s.cpc.sur1).setWidth 32))

/-- SETSX (R659). -/
def execSetsx (k : RsuNum) (s : State) : Result := .next (s.setRsu k (s.cpc.sur2.signExtend 32))

/-- LTS (R660). -/
def execLts (s : State) : Result := .next (s.setTally (0#8 ++ s.cpc.sur5))

end Sys2Proof.Machine
end

