-- ==== Sys2Proof/Machine/Transfer.lean ====
section
/-! DEFINITION. The meanings of the transfers, literal loads, shifts and moves (41). -/

namespace Sys2Proof.Machine

/-! ### Scratch pad references through the pointers (20 R192 to R195) -/

/-- ERU `32 + n` is a scratch pad reference (20 R190). -/
def isPointerEru (n : BitVec 5) : Bool := decide (n.toNat ≤ 6)

/-- The Operand Pointer of ERU `32 + n`: #1 for 32 to 34, #2 for 35 to 37 (20 R194). -/
def State.operandPointer (s : State) (n : BitVec 5) : Byte := if n.toNat < 3 then s.cpc.optr1 else s.cpc.optr2

/-- ERU `32 + n` goes through the Stack Pointer: ERU 38, or its Operand Pointer is in stack mode (20 R194). -/
def State.usesStack (s : State) (n : BitVec 5) : Bool := n == 6#5 || bitAt (s.operandPointer n) 8

/-- What an access through ERU `32 + n` makes of its pointer: the same, one more or one less, modulo 128 (20 R194). -/
def bumpPointer (n : BitVec 5) (p : Byte) : Byte :=
  let i : BitVec 7 := p.extractLsb' 0 7
  bit1 (bitAt p 8) ++ (if n.toNat % 3 = 1 then i + 1 else if n.toNat % 3 = 2 then i - 1 else i)

/-- The pointer of ERU `32 + n` after an access. -/
def State.bumpOperand (s : State) (n : BitVec 5) : State :=
  if n.toNat < 3 then { s with cpc := { s.cpc with optr1 := bumpPointer n s.cpc.optr1 } }
  else { s with cpc := { s.cpc with optr2 := bumpPointer n s.cpc.optr2 } }

/-- Stack Pointer replaced. -/
def State.setSptr (s : State) (p : BitVec 5) : State := { s with cpc := { s.cpc with sptr := p } }

/-- A TIE from ERU `32 + n`, 32 to 38: a fetch of the scratch pad word, then the pointer (20 R194, R195). -/
def State.pointerFetch (s : State) (n : BitVec 5) : State :=
  if s.usesStack n then
    (s.cpcRealFetch (scratchTarget (2#2 ++ (s.cpc.sptr - 1)))).setSptr (s.cpc.sptr - 1)
  else (s.cpcRealFetch (scratchTarget ((s.operandPointer n).extractLsb' 0 7))).bumpOperand n

/-- A TOE to ERU `32 + n`, 32 to 38: a full store to the scratch pad word, then the pointer (20 R194, R195). -/
def State.pointerStore (s : State) (n : BitVec 5) (d : Word) : State :=
  if s.usesStack n then
    (s.cpcRealStore (scratchTarget (2#2 ++ s.cpc.sptr)) 0xF#4 d).setSptr (s.cpc.sptr + 1)
  else (s.cpcRealStore (scratchTarget ((s.operandPointer n).extractLsb' 0 7)) 0xF#4 d).bumpOperand n

/-! ### External and internal registers -/

/-- A register read: the word to `RSU[k]`. -/
def receiveRegister (o : Except Refusal (Word × State)) (k : RsuNum) : Result :=
  match o with
  | .ok (w, t) => .next (t.setRsu k w)
  | .error r => .refused r

/-- TIE (R392): a scratch pad reference leaves `RSU[k]` to the RCV that follows. -/
def execTie (n : BitVec 5) (k : RsuNum) (s : State) : Result :=
  if isPointerEru n then .next (s.pointerFetch n) else receiveRegister (s.dropFetch.eruRead (1#2 ++ n)) k

/-- TIP (R393). -/
def execTip (p : BitVec 6) (k : RsuNum) (s : State) : Result :=
  .next ((s.dropFetch.portRead p).2.setRsu k (s.dropFetch.portRead p).1)

/-- TOE (R394). -/
def execToe (n : BitVec 5) (k : RsuNum) (s : State) : Result :=
  if isPointerEru n then .next (s.pointerStore n (s.rsu k)) else settle (s.dropFetch.eruWrite (1#2 ++ n) (s.rsu k)) id

/-- TOP (R395). -/
def execTop (p : BitVec 6) (k : RsuNum) (s : State) : Result := .next (s.dropFetch.portWrite p (s.rsu k))

/-- TII (R396): reading the Restore FIFO rotates it (10 R55). -/
def execTii (n : BitVec 5) (k : RsuNum) (s : State) : Result :=
  match s.iruRead n (s.rsu k) with
  | some w => .next ((if n = 8#5 then s.fifoRotate else s).setRsu k w)
  | none => .refused (.unusedIru n)

/-- TOI (R397). -/
def execToi (n : BitVec 5) (k : RsuNum) (s : State) : Result :=
  match s.iruWrite n (s.rsu k) with
  | some t => .next t
  | none => .refused (.unusedIru n)

/-! ### Words and literals -/

/-- A TW from `j` to `k` clears the MARS6 write tags: `k` is RSU 12 or 13 (R398), and by parameter `j` is another register (R398, 47
R670), or any, or no TW does (10 R67; log 23). -/
def State.twClears (s : State) (j k : RsuNum) : Bool :=
  (k == 12#4 || k == 13#4) && match s.plat.twTags with
    | .never => false
    | .moved => j != k
    | .always => true

/-- TW (R398); a register moved to itself is the no-operation, on machines with `twTags` not `always` (R398, 47 R670; log 23). -/
def execTw (j k : RsuNum) (s : State) : Result :=
  let t := s.setRsu k (s.rsu j)
  .next (if s.twClears j k then t.setM6wt 0#4 else t)

/-- LTRC (R399). -/
def execLtrc (lit : Byte) (s : State) : Result := .next (s.setTally (0#8 ++ lit))

/-- LB (R400). -/
def execLb (lit : Byte) (s : State) : Result := .next (s.setRsu 0 (putByte (s.rsu 0) 0 lit))

/-- LLD (R401). -/
def execLld (j : ByteAddr) (k : Lit4) (s : State) : Result := .next (s.setByteOp j (k ++ rightDigit (s.byteOp j)))

/-- LRD (R402). -/
def execLrd (j : ByteAddr) (k : Lit4) (s : State) : Result := .next (s.setByteOp j (leftDigit (s.byteOp j) ++ k))

/-- LRH (R403). -/
def execLrh (k : RsuNum) (l : Half) (s : State) : Result := .next ((s.setRsu k (withRight (s.rsu k) l)).void 1)

/-- LRHC (R404). -/
def execLrhc (k : RsuNum) (l : Half) (s : State) : Result := .next ((s.setRsu k (0#16 ++ l)).void 1)

/-! ### Shifts -/

/-- SWAR (R405). -/
def execSwar (j k : RsuNum) (s : State) : Result :=
  let v := s.rsu j
  .next ((s.setRsu k (bit1 (bitAt v 32) ++ v.extractLsb' 1 31)).setIndAt 4 (bitAt v 1))

/-- SWLL (R406). -/
def execSwll (j k : RsuNum) (s : State) : Result :=
  let v := s.rsu j
  .next ((s.setRsu k (v.extractLsb' 0 31 ++ 0#1)).setIndAt 4 (bitAt v 32))

/-- SWLLC (R407). -/
def execSwllc (j k : RsuNum) (s : State) : Result :=
  let v := s.rsu j
  .next ((s.setRsu k (v.extractLsb' 0 31 ++ bit1 (s.indAt 4))).setIndAt 4 (bitAt v 32))

/-- SWLR (R408). -/
def execSwlr (j k : RsuNum) (s : State) : Result :=
  let v := s.rsu j
  .next ((s.setRsu k (0#1 ++ v.extractLsb' 1 31)).setIndAt 4 (bitAt v 1))

/-- SWLRC (R409). -/
def execSwlrc (j k : RsuNum) (s : State) : Result :=
  let v := s.rsu j
  .next ((s.setRsu k (bit1 (s.indAt 4) ++ v.extractLsb' 1 31)).setIndAt 4 (bitAt v 1))

/-- SWCL (R410). -/
def execSwcl (j k : RsuNum) (s : State) : Result :=
  let v := s.rsu j
  .next (s.setRsu k (v.extractLsb' 0 31 ++ bit1 (bitAt v 32)))

/-! ### Halfwords, bytes, digits -/

/-- TLHLH (R411). -/
def execTlhlh (j k : RsuNum) (s : State) : Result := .next (s.setRsu k (withLeft (s.rsu k) (leftHalf (s.rsu j))))

/-- TLHRH (R412). -/
def execTlhrh (j k : RsuNum) (s : State) : Result := .next (s.setRsu k (withRight (s.rsu k) (leftHalf (s.rsu j))))

/-- TRHLH (R413). -/
def execTrhlh (j k : RsuNum) (s : State) : Result := .next (s.setRsu k (withLeft (s.rsu k) (rightHalf (s.rsu j))))

/-- TRHRH (R414). -/
def execTrhrh (j k : RsuNum) (s : State) : Result := .next (s.setRsu k (withRight (s.rsu k) (rightHalf (s.rsu j))))

/-- TB (R415). -/
def execTb (j k : ByteAddr) (s : State) : Result := .next (s.setByteOp k (s.byteOp j))

/-- A digit move: the whole source byte is checked, then `BK` is replaced (R416). -/
def State.moveDigit (s : State) (j k : ByteAddr) (f : Byte → Byte → Byte) : State :=
  (s.bcdCheck true (s.byteOp j)).setByteOp k (f (s.byteOp j) (s.byteOp k))

/-- TLDL (R416). -/
def execTldl (j k : ByteAddr) (s : State) : Result :=
  .next (s.moveDigit j k fun a b => leftDigit a ++ rightDigit b)

/-- TLDR (R417). -/
def execTldr (j k : ByteAddr) (s : State) : Result :=
  .next (s.moveDigit j k fun a b => leftDigit b ++ leftDigit a)

/-- TRDL (R418). -/
def execTrdl (j k : ByteAddr) (s : State) : Result :=
  .next (s.moveDigit j k fun a b => rightDigit a ++ rightDigit b)

/-- TRDR (R419). -/
def execTrdr (j k : ByteAddr) (s : State) : Result :=
  .next (s.moveDigit j k fun a b => leftDigit b ++ rightDigit a)

end Sys2Proof.Machine
end

