-- ==== Sys2Proof/Machine/Dispatch.lean ====
section
/-! DEFINITION. The dispatch: one arm per instruction, one direct call of its meaning. -/

namespace Sys2Proof.Machine

/-- The meaning of an instruction. -/
def exec (i : Instr) (s : State) : Host.Outcome State Fault Refusal :=
  match i with
  | .mrr k => Sys2Proof.Machine.execMrr k s
  | .fr k => Sys2Proof.Machine.execFr k s
  | .f k => Sys2Proof.Machine.execF k s
  | .lfa j k => Sys2Proof.Machine.execLfa j k s
  | .lfal j k => Sys2Proof.Machine.execLfal j k s
  | .lfd j k => Sys2Proof.Machine.execLfd j k s
  | .fl a => Sys2Proof.Machine.execFl a s
  | .sr j k => Sys2Proof.Machine.execSr j k s
  | .s j k => Sys2Proof.Machine.execS j k s
  | .sa j k => Sys2Proof.Machine.execSa j k s
  | .sd j k => Sys2Proof.Machine.execSd j k s
  | .sl a k => Sys2Proof.Machine.execSl a k s
  | .tie n k => Sys2Proof.Machine.execTie n k s
  | .tip p k => Sys2Proof.Machine.execTip p k s
  | .toe n k => Sys2Proof.Machine.execToe n k s
  | .top p k => Sys2Proof.Machine.execTop p k s
  | .tii n k => Sys2Proof.Machine.execTii n k s
  | .toi n k => Sys2Proof.Machine.execToi n k s
  | .tw j k => Sys2Proof.Machine.execTw j k s
  | .ltrc lit => Sys2Proof.Machine.execLtrc lit s
  | .lb lit => Sys2Proof.Machine.execLb lit s
  | .lld j k => Sys2Proof.Machine.execLld j k s
  | .lrd j k => Sys2Proof.Machine.execLrd j k s
  | .lrh k l => Sys2Proof.Machine.execLrh k l s
  | .lrhc k l => Sys2Proof.Machine.execLrhc k l s
  | .swar j k => Sys2Proof.Machine.execSwar j k s
  | .swll j k => Sys2Proof.Machine.execSwll j k s
  | .swllc j k => Sys2Proof.Machine.execSwllc j k s
  | .swlr j k => Sys2Proof.Machine.execSwlr j k s
  | .swlrc j k => Sys2Proof.Machine.execSwlrc j k s
  | .swcl j k => Sys2Proof.Machine.execSwcl j k s
  | .tlhlh j k => Sys2Proof.Machine.execTlhlh j k s
  | .tlhrh j k => Sys2Proof.Machine.execTlhrh j k s
  | .trhlh j k => Sys2Proof.Machine.execTrhlh j k s
  | .trhrh j k => Sys2Proof.Machine.execTrhrh j k s
  | .tb j k => Sys2Proof.Machine.execTb j k s
  | .tldl j k => Sys2Proof.Machine.execTldl j k s
  | .tldr j k => Sys2Proof.Machine.execTldr j k s
  | .trdl j k => Sys2Proof.Machine.execTrdl j k s
  | .trdr j k => Sys2Proof.Machine.execTrdr j k s
  | .tflhd j k => Sys2Proof.Machine.execTflhd j k s
  | .tflhi j k => Sys2Proof.Machine.execTflhi j k s
  | .tfrhd j k => Sys2Proof.Machine.execTfrhd j k s
  | .tfrhi j k => Sys2Proof.Machine.execTfrhi j k s
  | .tffd => Sys2Proof.Machine.execTffd s
  | .tffi => Sys2Proof.Machine.execTffi s
  | .tfbd j k => Sys2Proof.Machine.execTfbd j k s
  | .tfbi j k => Sys2Proof.Machine.execTfbi j k s
  | .tfbdn j k => Sys2Proof.Machine.execTfbdn j k s
  | .tfb j k => Sys2Proof.Machine.execTfb j k s
  | .tfbin j k => Sys2Proof.Machine.execTfbin j k s
  | .tlhfd j => Sys2Proof.Machine.execTlhfd j s
  | .tlhfi j => Sys2Proof.Machine.execTlhfi j s
  | .trhfd j => Sys2Proof.Machine.execTrhfd j s
  | .trhfi j => Sys2Proof.Machine.execTrhfi j s
  | .tbfin j => Sys2Proof.Machine.execTbfin j s
  | .tbfd j => Sys2Proof.Machine.execTbfd j s
  | .tbfi j => Sys2Proof.Machine.execTbfi j s
  | .tbfdn j => Sys2Proof.Machine.execTbfdn j s
  | .tbf j => Sys2Proof.Machine.execTbf j s
  | .baf => Sys2Proof.Machine.execBaf s
  | .bof => Sys2Proof.Machine.execBof s
  | .bef => Sys2Proof.Machine.execBef s
  | .baw j k => Sys2Proof.Machine.execBaw j k s
  | .bow j k => Sys2Proof.Machine.execBow j k s
  | .bew j k => Sys2Proof.Machine.execBew j k s
  | .biw j k => Sys2Proof.Machine.execBiw j k s
  | .bab j k => Sys2Proof.Machine.execBab j k s
  | .bob j k => Sys2Proof.Machine.execBob j k s
  | .beb j k => Sys2Proof.Machine.execBeb j k s
  | .bald j k => Sys2Proof.Machine.execBald j k s
  | .bard j k => Sys2Proof.Machine.execBard j k s
  | .bold j k => Sys2Proof.Machine.execBold j k s
  | .bord j k => Sys2Proof.Machine.execBord j k s
  | .beld j k => Sys2Proof.Machine.execBeld j k s
  | .berd j k => Sys2Proof.Machine.execBerd j k s
  | .bib j k => Sys2Proof.Machine.execBib j k s
  | .af => Sys2Proof.Machine.execAf s
  | .sf => Sys2Proof.Machine.execSf s
  | .cfu => Sys2Proof.Machine.execCfu s
  | .apdf => Sys2Proof.Machine.execApdf s
  | .spdf => Sys2Proof.Machine.execSpdf s
  | .audf => Sys2Proof.Machine.execAudf s
  | .sudf => Sys2Proof.Machine.execSudf s
  | .aw j k => Sys2Proof.Machine.execAw j k s
  | .sw j k => Sys2Proof.Machine.execSw j k s
  | .awc j k => Sys2Proof.Machine.execAwc j k s
  | .swc j k => Sys2Proof.Machine.execSwc j k s
  | .cws j k => Sys2Proof.Machine.execCws j k s
  | .cwu j k => Sys2Proof.Machine.execCwu j k s
  | .cbfu => Sys2Proof.Machine.execCbfu s
  | .acrl j k => Sys2Proof.Machine.execAcrl j k s
  | .awlni j k => Sys2Proof.Machine.execAwlni j k s
  | .swlni j k => Sys2Proof.Machine.execSwlni j k s
  | .awl j k => Sys2Proof.Machine.execAwl j k s
  | .swl j k => Sys2Proof.Machine.execSwl j k s
  | .cbs j k => Sys2Proof.Machine.execCbs j k s
  | .cbu j k => Sys2Proof.Machine.execCbu j k s
  | .ab j k => Sys2Proof.Machine.execAb j k s
  | .sb j k => Sys2Proof.Machine.execSb j k s
  | .abc j k => Sys2Proof.Machine.execAbc j k s
  | .sbc j k => Sys2Proof.Machine.execSbc j k s
  | .apdb j k => Sys2Proof.Machine.execApdb j k s
  | .spdb j k => Sys2Proof.Machine.execSpdb j k s
  | .apdbc j k => Sys2Proof.Machine.execApdbc j k s
  | .spdbc j k => Sys2Proof.Machine.execSpdbc j k s
  | .sbl j k => Sys2Proof.Machine.execSbl j k s
  | .jor j k => Sys2Proof.Machine.execJor j k s
  | .djor j k => Sys2Proof.Machine.execDjor j k s
  | .jpmbn => Sys2Proof.Machine.execJpmbn s
  | .djpmbn => Sys2Proof.Machine.execDjpmbn s
  | .srb3o sel k => Sys2Proof.Machine.execSrb3o sel k s
  | .djibo sel k => Sys2Proof.Machine.execDjibo sel k s
  | .djibz sel k => Sys2Proof.Machine.execDjibz sel k s
  | .ribo jr sel => Sys2Proof.Machine.execRibo jr sel s
  | .dribo jr sel => Sys2Proof.Machine.execDribo jr sel s
  | .ribz jr sel => Sys2Proof.Machine.execRibz jr sel s
  | .dribz jr sel => Sys2Proof.Machine.execDribz jr sel s
  | .jfa => Sys2Proof.Machine.execJfa s
  | .jfal => Sys2Proof.Machine.execJfal s
  | .jibo sel k => Sys2Proof.Machine.execJibo sel k s
  | .jibz sel k => Sys2Proof.Machine.execJibz sel k s
  | .jrp disp => Sys2Proof.Machine.execJrp disp s
  | .jrm disp => Sys2Proof.Machine.execJrm disp s
  | .djrp disp => Sys2Proof.Machine.execDjrp disp s
  | .djrm disp => Sys2Proof.Machine.execDjrm disp s
  | .jiol hi jr k l => Sys2Proof.Machine.execJiol hi jr k l s
  | .jizl hi jr k l => Sys2Proof.Machine.execJizl hi jr k l s
  | .djtnz disp => Sys2Proof.Machine.execDjtnz disp s
  | .jrpx disp => Sys2Proof.Machine.execJrpx disp s
  | .jrmx disp => Sys2Proof.Machine.execJrmx disp s
  | .jibom sel k => Sys2Proof.Machine.execJibom sel k s
  | .jibzm sel k => Sys2Proof.Machine.execJibzm sel k s
  | .djibom sel k => Sys2Proof.Machine.execDjibom sel k s
  | .djibzm sel k => Sys2Proof.Machine.execDjibzm sel k s
  | .jibol sel l => Sys2Proof.Machine.execJibol sel l s
  | .jibzl sel l => Sys2Proof.Machine.execJibzl sel l s
  | .sibo sel => Sys2Proof.Machine.execSibo sel s
  | .sibz sel => Sys2Proof.Machine.execSibz sel s
  | .jtnz disp => Sys2Proof.Machine.execJtnz disp s
  | .sru j k => Sys2Proof.Machine.execSru j k s
  | .sre j k => Sys2Proof.Machine.execSre j k s
  | .srbo sel k => Sys2Proof.Machine.execSrbo sel k s
  | .srbz sel k => Sys2Proof.Machine.execSrbz sel k s
  | .jro hi j k l => Sys2Proof.Machine.execJro hi j k l s
  | .jrz hi j k l => Sys2Proof.Machine.execJrz hi j k l s
  | .setia j k => Sys2Proof.Machine.execSetia j k s
  | .setna j => Sys2Proof.Machine.execSetna j s
  | .jmpia jr k => Sys2Proof.Machine.execJmpia jr k s
  | .jmpib k => Sys2Proof.Machine.execJmpib k s
  | .jmpic => Sys2Proof.Machine.execJmpic s
  | .jmpna jr k => Sys2Proof.Machine.execJmpna jr k s
  | .jmpnb k => Sys2Proof.Machine.execJmpnb k s
  | .jmpnc => Sys2Proof.Machine.execJmpnc s
  | .jmpva => Sys2Proof.Machine.execJmpva s
  | .jmpvb => Sys2Proof.Machine.execJmpvb s
  | .jmpvc => Sys2Proof.Machine.execJmpvc s
  | .jmpd k => Sys2Proof.Machine.execJmpd k s
  | .mii en => Sys2Proof.Machine.execMii en s
  | .min en => Sys2Proof.Machine.execMin en s
  | .miv en => Sys2Proof.Machine.execMiv en s
  | .tsb j => Sys2Proof.Machine.execTsb j s
  | .tsldc j => Sys2Proof.Machine.execTsldc j s
  | .tsrdc j => Sys2Proof.Machine.execTsrdc j s
  | .tsbc j => Sys2Proof.Machine.execTsbc j s
  | .setsx k => Sys2Proof.Machine.execSetsx k s
  | .lts => Sys2Proof.Machine.execLts s
  | .eaf lit => Sys2Proof.Machine.execEaf lit s
  | .wpmb => Sys2Proof.Machine.execWpmb s
  | .rcv j k => Sys2Proof.Machine.execRcv j k s
  | .linkm jr k => Sys2Proof.Machine.execLinkm jr k s
  | .rti jc kc => Sys2Proof.Machine.execRti jc kc s
  | .link jr k => Sys2Proof.Machine.execLink jr k s
  | .sc lit => Sys2Proof.Machine.execSc lit s
  | .rc lit => Sys2Proof.Machine.execRc lit s
  | .sco => Sys2Proof.Machine.execSco s
  | .riz => Sys2Proof.Machine.execRiz s
  | .upkl j k => Sys2Proof.Machine.execUpkl j k s
  | .upkr j k => Sys2Proof.Machine.execUpkr j k s

end Sys2Proof.Machine
end

