-- ==== Sys2Proof/Machine/Hazards.lean ====
section
/-! DEFINITION. The adjacency restrictions the step refuses (70 R768, R775, R780, R784, R785, R788), from the registers an
instruction names. -/

namespace Sys2Proof.Machine

/-! ### Registers an instruction names, as masks: bit `n` for `RSU[n]` -/

/-- The mask of one register. -/
def oneOf (k : RsuNum) : BitVec 16 := 1#16 <<< k.toNat

/-- The mask of the register of a byte operand. -/
def oneByte (a : ByteAddr) : BitVec 16 := oneOf (byteReg a)

/-- The mask of both registers of a pair. -/
def pairOf (k : RsuNum) : BitVec 16 := oneOf (evenOf k) ||| oneOf (oddOf k)

/-- RSU 8 to 13: the units MARS4, MARS5 and MARS6. -/
def threeUnits : BitVec 16 := 0x3F00

/-- The registers an instruction writes as its destination, the stepping of a byte pointer apart. -/
def destinations (i : Instr) (s : State) : BitVec 16 :=
  match i with
  | .lfa j _ | .lfal j _ | .lfd j _ => oneOf j
  | .sa _ k | .sd _ k => oneOf (evenOf k)
  | .tie n k => if isPointerEru n then 0 else oneOf k
  | .tip _ k | .tii _ k | .tw _ k | .lrh k _ | .lrhc k _ => oneOf k
  | .lb _ => oneOf 0
  | .lld j _ | .lrd j _ => oneByte j
  | .swar _ k | .swll _ k | .swllc _ k | .swlr _ k | .swlrc _ k | .swcl _ k => oneOf k
  | .tlhlh _ k | .tlhrh _ k | .trhlh _ k | .trhrh _ k => oneOf k
  | .tb _ k | .tldl _ k | .tldr _ k | .trdl _ k | .trdr _ k => oneByte k
  | .tflhd j _ | .tflhi j _ | .tfrhd j _ | .tfrhi j _ => oneOf j
  | .tfb j _ | .tfbd j _ | .tfbdn j _ | .tfbi j _ | .tfbin j _ => oneByte j
  | .tffd | .tffi | .tbf _ | .tbfd _ | .tbfdn _ | .tbfi _ | .tbfin _ => oneOf 13
  | .tlhfd _ | .tlhfi _ | .trhfd _ | .trhfi _ => oneOf 13
  | .baf | .bof | .bef | .af | .sf | .apdf | .spdf | .audf | .sudf => oneOf 13
  | .baw j _ | .bow j _ | .bew j _ | .biw j _ => oneOf j
  | .bab j _ | .bob j _ | .beb j _ | .bib j _ => oneByte j
  | .bald j _ | .bard j _ | .bold j _ | .bord j _ | .beld j _ | .berd j _ => oneByte j
  | .aw j _ | .sw j _ | .awc j _ | .swc j _ => oneOf j
  | .acrl j _ | .awlni j _ | .swlni j _ | .awl j _ | .swl j _ => oneOf j
  | .ab j _ | .sb j _ | .abc j _ | .sbc j _ | .sbl j _ => oneByte j
  | .apdb j _ | .spdb j _ | .apdbc j _ | .spdbc j _ => oneByte j
  | .setia j _ | .setna j | .tsb j | .tsldc j | .tsrdc j | .tsbc j => oneOf j
  | .setsx k => oneOf k
  | .rcv j k => oneOf (s.rcvDest j k)
  | .upkl _ k | .upkr _ k => oneByte k
  | _ => 0

/-- The registers an instruction reads: operands, address registers, and destinations only partly written (R785). -/
def sources (i : Instr) (s : State) : BitVec 16 :=
  match i with
  | .mrr k => oneOf k ||| (if s.cpc.sr.extractLsb' 14 2 = 1#2 then oneOf (s.cpc.sr.extractLsb' 10 4) else 0)
  | .fr k | .f k | .lfa _ k | .lfal _ k | .lfd _ k => oneOf k
  | .sr _ k | .s _ k | .sa _ k | .sd _ k => pairOf k
  | .sl _ k | .toe _ k | .top _ k | .tii _ k | .toi _ k | .lrh k _ => oneOf k
  | .tw j _ | .swar j _ | .swll j _ | .swllc j _ | .swlr j _ | .swlrc j _ | .swcl j _ => oneOf j
  | .lb _ => oneOf 0
  | .lld j _ | .lrd j _ => oneByte j
  | .tlhlh j k | .tlhrh j k | .trhlh j k | .trhrh j k => oneOf j ||| oneOf k
  | .tb j k | .tldl j k | .tldr j k | .trdl j k | .trdr j k => oneByte j ||| oneByte k
  | .tflhd j k | .tflhi j k | .tfrhd j k | .tfrhi j k => oneOf j ||| pairOf k
  | .tfb j k | .tfbd j k | .tfbdn j k | .tfbi j k | .tfbin j k => oneByte j ||| pairOf k
  | .tffd | .tffi => pairOf 9 ||| pairOf 13
  | .tbf j | .tbfd j | .tbfdn j | .tbfi j | .tbfin j => oneByte j ||| pairOf 13
  | .tlhfd j | .tlhfi j | .trhfd j | .trhfi j => oneOf j ||| pairOf 13
  | .baf | .bof | .bef | .af | .sf | .apdf | .spdf | .audf | .sudf => threeUnits
  | .cfu | .cbfu => pairOf 9 ||| pairOf 11
  | .baw j k | .bow j k | .bew j k | .aw j k | .sw j k | .awc j k | .swc j k | .cws j k | .cwu j k => oneOf j ||| oneOf k
  | .biw _ k => oneOf k
  | .bab j k | .bob j k | .beb j k | .bib j k => oneByte j ||| oneByte k
  | .bald j _ | .bard j _ | .bold j _ | .bord j _ | .beld j _ | .berd j _ => oneByte j
  | .acrl j _ | .awlni j _ | .swlni j _ | .awl j _ | .swl j _ => oneOf j
  | .cbs j k | .cbu j k | .ab j k | .sb j k | .abc j k | .sbc j k => oneByte j ||| oneByte k
  | .apdb j k | .spdb j k | .apdbc j k | .spdbc j k => oneByte j ||| oneByte k
  | .sbl j _ => oneByte j
  | .jor _ k | .djor _ k | .srb3o _ k => oneOf k
  | .jibo _ k | .jibz _ k | .djibo _ k | .djibz _ k => if s.plat.pairJumpsByRsu then oneOf k else 0
  | .sru j k | .sre j k => oneByte j ||| oneByte k
  | .srbo _ k | .srbz _ k | .jro _ _ k _ | .jrz _ _ k _ => oneByte k
  | .setia _ k | .jmpia _ k | .jmpna _ k => pairOf k
  | .setna _ => pairOf 15
  | .jmpib k | .jmpnb k | .jmpd k => oneOf k
  | .jmpva | .jmpvb => oneOf 15
  | .tsb j => oneOf j
  | .upkl j k | .upkr j k => oneByte j ||| oneByte k
  | _ => 0

/-- The MARS address registers a field instruction uses (42 R440). -/
def fieldUnits : Instr → BitVec 16
  | .tflhd _ k | .tflhi _ k | .tfrhd _ k | .tfrhi _ k => oneOf (addrReg k)
  | .tfb _ k | .tfbd _ k | .tfbdn _ k | .tfbi _ k | .tfbin _ k => oneOf (addrReg k)
  | .tffd | .tffi => oneOf 8 ||| oneOf 12
  | .tbf _ | .tbfd _ | .tbfdn _ | .tbfi _ | .tbfin _ => oneOf 12
  | .tlhfd _ | .tlhfi _ | .trhfd _ | .trhfi _ => oneOf 12
  | .baf | .bof | .bef | .af | .sf | .apdf | .spdf | .audf | .sudf => oneOf 8 ||| oneOf 10 ||| oneOf 12
  | .cfu | .cbfu => oneOf 8 ||| oneOf 10
  | _ => 0

/-- The MARS address registers whose byte pointer an instruction reads (R775). -/
def pointersRead (i : Instr) : BitVec 16 :=
  match i with
  | .jmpia _ _ | .jmpna _ _ | .setia _ _ | .setna _ => oneOf 14
  | i => fieldUnits i

/-- A field instruction. -/
def isField (i : Instr) : Bool := fieldUnits i != 0

/-- A setup instruction (46). -/
def isSetup : Instr → Bool
  | .setia _ _ | .setna _ | .jmpia _ _ | .jmpib _ | .jmpic | .jmpna _ _ | .jmpnb _ | .jmpnc | .jmpva | .jmpvb | .jmpvc
  | .jmpd _ | .mii _ | .min _ | .miv _ | .tsb _ | .tsldc _ | .tsrdc _ | .tsbc _ | .setsx _ | .lts => true
  | _ => false

/-- An instruction that counts as reading the tally: every field instruction, and the jumps that test it (R775). -/
def readsTally : Instr → Bool
  | .jfa | .jfal | .djtnz _ | .jtnz _ | .jmpvc => true
  | i => isField i

/-- An instruction that loads the tally (R775). -/
def loadsTally : Instr → Bool
  | .lts | .ltrc _ | .jmpvc => true
  | .toi n _ => n == 12#5
  | _ => false

/-- An instruction that needs the PM Bus (22 R275). -/
def needsBus : Instr → Bool
  | .mrr _ | .fr _ | .f _ | .lfa _ _ | .lfal _ _ | .lfd _ _ | .fl _ | .sr _ _ | .s _ _ | .sa _ _ | .sd _ _ | .sl _ _
  | .tie _ _ | .tip _ _ | .toe _ _ | .top _ _ | .eaf _ | .wpmb => true
  | _ => false

/-- The instruction is RCV. -/
def isRcv : Instr → Bool
  | .rcv _ _ => true
  | _ => false

/-- A condition selector that tests bit 6. -/
def selectsSix (sel : Sel) : Bool := sel.extractLsb' 2 2 == 2#2 && sel.extractLsb' 0 2 != 1#2

/-- An instruction that tests I6 (46 R637). -/
def testsSix : Instr → Bool
  | .djibo sel _ | .djibz sel _ | .jibo sel _ | .jibz sel _ | .jibom sel _ | .jibzm sel _ | .djibom sel _ | .djibzm sel _ =>
    selectsSix sel
  | .ribo _ sel | .dribo _ sel | .ribz _ sel | .dribz _ sel | .jibol sel _ | .jibzl sel _ | .sibo sel | .sibz sel =>
    selectsSix sel
  | .jiol hi _ _ _ | .jizl hi _ _ _ => bitAt hi 2
  | _ => false

/-- An instruction that writes I6 when it executes in `s` (10 R58): the checks of decimal digits, but not of a field instruction that
the tally voids (42 R443), the condition code matches, SETNA in the RI format (46 R651) or, by parameter, in any (10 R59; log 50), RIZ,
and TOI to IRU 16. -/
def writesSix (s : State) : Instr → Bool
  | .tldl _ _ | .tldr _ _ | .trdl _ _ | .trdr _ _ | .tfb _ _ | .tfbdn _ _ | .tfbin _ _ | .tbf _ | .tbfdn _ | .tbfin _
  | .apdb _ _ | .spdb _ _ | .apdbc _ _ | .spdbc _ _ | .jmpib _ | .jmpic | .riz => true
  | .tffd | .tffi | .tfbd _ _ | .tfbi _ _ | .tbfd _ | .tbfi _ | .apdf | .spdf | .audf | .sudf | .cfu | .cbfu =>
    s.cpc.tally != 0#16
  | .setna _ => s.plat.setnaResets || Config.nvmFormat s.cpc.sur1 == .ri
  | .toi n _ => n == 16#5
  | _ => false

/-! ### The hazards -/

/-- The pointer clauses of restriction 3 (R775; 93 U42). -/
def pointerHazard (p : Prev) (i : Instr) : Bool :=
  (pointersRead i &&& p.moved) != 0 ||
    (isField i && !isField p.instr && !isSetup p.instr && (fieldUnits i &&& p.wrote) != 0)

/-- The tally clause of restriction 3 (R775; 93 U42). -/
def tallyHazard (p : Prev) (i : Instr) : Bool := readsTally i && loadsTally p.instr

/-- Restriction 8 (R780; 93 U43); without an ATC those numbers are no commands (22 R299). -/
def busyHazard (s : State) (p : Prev) (i : Instr) : Bool :=
  s.plat.atcPresent && (needsBus i || isRcv i) && match p.instr with
    | .toe n _ => n == 20#5 || n == 22#5 || n == 23#5
    | _ => false

/-- Restriction 12 (R784; 93 U44). -/
def operandHazard (s : State) (p : Prev) (i : Instr) : Bool :=
  let hazard := fun n : BitVec 5 => isPointerEru n && match p.instr with
    | .toi r _ => (r == 24#5 && n != 6#5) || (r == 26#5 && s.usesStack n)
    | .setia _ _ | .setna _ => true
    | _ => false
  match i with
  | .tie n _ | .toe n _ => hazard n
  | _ => false

/-- Restriction 13 (R785; 93 U45). -/
def lateHazard (s : State) (p : Prev) (i : Instr) : Bool :=
  match p.instr with
  | .setia _ _ | .setna _ | .tsbc _ | .tsldc _ | .tsrdc _ | .setsx _ => (sources i s &&& p.wrote) != 0
  | _ => false

/-- The convention of JMPIB and JMPIC: the next instruction must neither test nor write I6 (46 R637; R788; 93 U34). -/
def matchHazard (s : State) (p : Prev) (i : Instr) : Bool :=
  match p.instr with
  | .jmpib _ | .jmpic => testsSix i || writesSix s i
  | _ => false

/-- Why the step refuses to execute `i` next, if it does. -/
def State.hazard (s : State) (i : Instr) : Option Refusal :=
  match s.pipe.prev with
  | none => none
  | some p =>
    if pointerHazard p i then some .pointerHazard
    else if tallyHazard p i then some .tallyHazard
    else if busyHazard s p i then some .atcBusyHazard
    else if operandHazard s p i then some .operandPointerHazard
    else if lateHazard s p i then some .lateResultHazard
    else if matchHazard s p i then some .matchIndicatorHazard
    else none

/-! ### What the next step has to remember -/

/-- The byte pointer bits of the value that `i`, which took `s` to `t`, loaded into its destination `RSU[a]`. Where `i` also steps that
pointer by two these are the bits of the loaded value; a left half has none, and a voided instruction loaded nothing (42 R443). -/
def loadedPointer (i : Instr) (a : RsuNum) (s t : State) : BitVec 2 :=
  match i with
  | .tflhd _ k | .tflhi _ k => if a = addrReg k then s.pointer a else t.pointer a
  | .tfrhd _ k | .tfrhi _ k =>
    if a = addrReg k ∧ s.cpc.tally ≠ 0#16 then (s.fhalf k).extractLsb' 0 2 else t.pointer a
  | .setia _ _ | .setna _ => if a = 14#4 then (s.fhalf 15).extractLsb' 0 2 else t.pointer a
  | _ => t.pointer a

/-- Of the destinations, those of the address registers 8, 10, 12, 14 into which other byte pointer bits were loaded. -/
def movedPointers (i : Instr) (s t : State) : BitVec 16 :=
  let one := fun a : RsuNum => if loadedPointer i a s t != s.pointer a then oneOf a else 0
  destinations i s &&& (one 8 ||| one 10 ||| one 12 ||| one 14)

/-- `PREV` after `i` took `s` to `t` (R768). -/
def prevOf (i : Instr) (s t : State) : Prev := { instr := i, wrote := destinations i s, moved := movedPointers i s t }

end Sys2Proof.Machine
end

