-- ==== Sys2Proof/Machine/Cycle.lean ====
section
/-! DEFINITION. One cycle of the machine: the events between cycles, the execute slot, the ATC's X1, the end of the cycle (10 R46,
R49; 60 R722; 70 R760). -/

namespace Sys2Proof.Machine

/-! ### Between two cycles -/

/-- The inputs of this cycle are taken from those to come; when none is left every input is quiet (log 7). -/
def State.takeInput (s : State) : State :=
  match s.inputs with
  | [] => { s with now := Input.quiet }
  | i :: rest => { s with now := i, inputs := rest }

/-- The state of the memory sequencer in this cycle, before any new message: a virtual operation goes on to its real state, a real
operation stays while DIE is late, everything else has ended (11 R141; log 42). -/
def State.nextSeq (s : State) : AtcSeq :=
  if s.atc.seqGoesOn then s.atc.seq.realHalf
  else if s.atc.seq.isReal && s.now.dieLate then s.atc.seq
  else .idle

/-- The outputs and marks that last one cycle are cleared; the cycle after PS, PSM or TVA is the one REQS keeps (11 R142); the
C.C. MATCH of the cycle before is due in this one (46 R637). -/
def State.clearOutputs (s : State) : State :=
  { s with
    pipe := { s.pipe with fieldCycles := 4, dueMatch := s.pipe.lateMatch, lateMatch := none }
    atc := { s.atc with
      seq := s.nextSeq
      seqGoesOn := false
      cpcInitiated := s.atc.cpcInitiated && s.nextSeq != .idle
      memErr := false
      mdee := false
      todHold := false
      busy2 := s.atc.reqsOnce
      reqsOnce := false } }

/-- `n` periods of TODOSC; every fourth makes a refresh due (11 R140; 20 R212). Which of four is the model's choice (log 52): the one
that makes bits 2 and 1 of TOD both 0. -/
def State.tick (s : State) : Nat → State
  | 0 => s
  | n + 1 =>
    let t := { s with atc := { s.atc with
      tod := s.atc.tod + 1
      refReq := s.atc.refReq || (s.atc.tod + 1).extractLsb' 0 2 == 0#2 } }
    t.tick n

/-- A fetch of another device: the error signals come with the word (22 R280). -/
def State.deviceFetch (s : State) (a : Word) : State :=
  (s.realFetch false (fetchBusWord a) (messageTarget a)).2.signalError
    (s.realFetch false (fetchBusWord a) (messageTarget a)).1.status

/-- The REQS level of a command as it was: REQS answers commands of the CPC (22 R277 (b)). -/
def State.withReqsOnce (s : State) (b : Bool) : State := { s with atc := { s.atc with reqsOnce := b } }

/-- A write message of another device to the register `n` (11 R122; 22 R276): the ATC, or the port that numbers from 64 on are, does
what it does for the CPC (log 63), but that `BIN` always drops it while it is full (11 R130; 22 R279) and that no REQS follows. -/
def State.deviceWrite (s : State) (n : BitVec 7) (d : Word) : Except Refusal State :=
  if bitAt n 7 then .ok (s.portWrite (n.extractLsb' 0 6) d)
  else if n = 46#7 then .ok (if s.plat.atcPresent then s.atcReceived.writeBin d else s)
  else match s.eruWrite n d with
    | .error r => .error r
    | .ok t => .ok (t.withReqsOnce s.atc.reqsOnce)

/-- A read message of another device to the register `n` (11 R122; 22 R276): what the read does in the ATC or the port; the word leaves
the machine (log 63). -/
def State.deviceRead (s : State) (n : BitVec 7) : Except Refusal State :=
  if bitAt n 7 then .ok (s.portRead (n.extractLsb' 0 6)).2
  else match s.eruRead n with
    | .error r => .error r
    | .ok (_, t) => .ok t

/-- A message of another device (11 R122; 22 R278, R296); a store without write tags is a fetch on the bus (22 R292). -/
def State.deviceMessage (s : State) : BusMessage → Except Refusal State
  | .realFetch a => .ok (s.deviceFetch a)
  | .realStore a tags d =>
    .ok (if tags = 0#4 then s.deviceFetch a else s.realStore false (messageTarget a) tags d)
  | .binWrite d => s.deviceWrite 46#7 d
  | .eruWrite n d => s.deviceWrite n d
  | .eruRead n => s.deviceRead n

/-- Messages of other devices, one after another, up to one that the spec refuses. -/
def State.deviceMessages (s : State) : List BusMessage → Except Refusal State
  | [] => .ok s
  | m :: ms => match s.deviceMessage m with
    | .error r => .error r
    | .ok t => t.deviceMessages ms

/-- REQS is asserted, or was asserted for this cycle: the bus is the CPC's (22 R277). -/
def State.reqsHolds (s : State) : Bool := s.atc.reqs || s.atc.busy2

/-- A memory operation still holds the bus: the next one begins when the sequencer is in state 0 (11 R141; 22 R290). -/
def State.operationRuns (s : State) : Bool := s.atc.seq != .idle

/-- Other devices may have the bus: no reset, no REQS, no operation on its way (22 R277, R290). -/
def State.devicesMayAct (s : State) : Bool := !s.now.pmrst && !s.reqsHolds && !s.operationRuns

/-- A trap holds refresh off: the memory error trap (20 R212; 22 R289), or by the parameter `trapsHoldRefresh` any trap (11 R141;
log 15). -/
def State.trapHoldsRefresh (s : State) : Bool :=
  bitAt s.atc.ita 14 || s.plat.trapsHoldRefresh && (bitAt s.atc.ita 13 || bitAt s.atc.ita 16)

/-- A refresh may start: one is due, nothing inhibits it and no operation is on its way (11 R141; 20 R212; 22 R289; 70 R762;
log 15). -/
def State.refreshMayStart (s : State) : Bool :=
  s.plat.atcPresent && s.now.refresh && s.atc.refReq && !s.now.inh && !s.now.pmrst && !s.trapHoldsRefresh &&
    !s.atc.synLock && !s.reqsHolds && !s.operationRuns

/-- The events before a cycle: TOD ticks, the messages of other devices, a refresh. -/
def State.between (s : State) : Except Refusal State :=
  let s := s.clearOutputs
  let s := if s.plat.atcPresent then s.tick s.now.todTicks else s
  match s.deviceMessages (if s.devicesMayAct then s.now.messages else []) with
  | .error r => .error r
  | .ok s => .ok (if s.refreshMayStart then s.refreshWord else s)

/-- The state in which the CPC's cycle starts, if no message of a device is refused. -/
def State.begin (s : State) : Except Refusal State := s.takeInput.between

/-! ### The execute slot -/

/-- The instruction of the execute stage: `none` for a voided slot (10 R47). -/
def State.slot (s : State) : Except Refusal (Option Instr) :=
  if s.pipe.skip = 0#2 then
    match decode s.pipe.xr s.pipe.ir with
    | .ok i => .ok (some i)
    | .error e => .error (.notAnInstruction e)
  else .ok none

/-- BAV is negated: another device has asked for the bus, unless REQS gives it to the CPC (22 R275, R277), or a memory operation holds
it (22 R290). -/
def State.busTaken (s : State) : Bool := s.now.bavNegated && !s.reqsHolds || s.operationRuns

/-- The word in the interpret stage is the literal of the instruction in the execute stage (10 R48). -/
def State.interpretsLiteral (s : State) : Bool :=
  s.pipe.skip == 0#2 && match decode s.pipe.xr s.pipe.ir with
    | .ok i => i.literal.isSome
    | .error _ => false

/-- The instruction in the interpret stage needs the bus (10 R49). The model's choice (log 43): a literal is no instruction, and a word
that the skip count voids needs nothing; one that the instruction in front of it may void counts. -/
def State.interpretNeedsBus (s : State) : Bool :=
  match decode s.pipe.ir (s.isuAt s.pipe.cr) with
  | .ok i => needsBus i && decide (s.pipe.skip.toNat ≤ 1) && !s.interpretsLiteral
  | .error _ => false

/-- A bus wait: the instruction in the interpret stage needs the bus and BAV is negated; the cycle does not advance and nothing
executes (10 R49; 22 R275). -/
def State.busWait (s : State) : Bool := s.busTaken && s.interpretNeedsBus

/-- An instruction in the execute stage that needs the bus waits until a memory operation has come back to state 0 (11 R141; 22
R290). -/
def State.operationWait (s : State) (i : Instr) : Bool := needsBus i && s.operationRuns

/-- A receive wait: RCV without its word, until the word or a trap or an interrupt comes (10 R49; 40 R361; 60 R723). -/
def State.receiveWait (s : State) (i : Instr) : Bool := isRcv i && s.wordOnBus.isNone && s.wanted.isNone

/-- The slot of `i` is held by a running operation or a receive wait, and no restriction refuses `i` (10 R49; 70 R780). -/
def State.waits (s : State) (i : Instr) : Bool := (s.operationWait i || s.receiveWait i) && (s.hazard i).isNone

/-- An execute slot that neither receives nor uses the bus: a fetched word gets older and may go by (40 R361). -/
def State.ageFetch (s : State) : State :=
  match s.cpc.fetch with
  | none => s
  | some f =>
    if s.plat.fetchWindow ≤ f.age then s.dropFetch
    else { s with cpc := { s.cpc with fetch := some { f with age := f.age + 1 } } }

/-- `PREV` replaced. -/
def State.setPrev (s : State) (p : Option Prev) : State := { s with pipe := { s.pipe with prev := p } }

/-- A voided slot (10 R47). -/
def State.voidedSlot (s : State) : State :=
  (({ s with pipe := { s.pipe with skip := s.pipe.skip - 1 } } : State).setPrev none).ageFetch

/-- What follows the execution of `i`, which took `s` to `t`. -/
def afterExec (i : Instr) (s t : State) : State :=
  let t := t.setPrev (some (prevOf i s t))
  if needsBus i || isRcv i then t else t.ageFetch

/-- The instruction `i` executes, unless a restriction refuses it (70 R768). -/
def executeSlot (i : Instr) (s : State) : Result :=
  match s.hazard i with
  | some r => .refused r
  | none => andThen (exec i s) fun t => .next (afterExec i s t)

/-! ### The end of a cycle -/

/-- The Time-Of-Day interrupt is inhibited during a fetch operation and while TOD or ITMR is written, and a bit that a TOE has cleared is
set again at the next X1 only (11 R140; 60 R704). The model's reading (log 39): a fetch operation is one of any device in its state of
the sequencer, and one of the CPC until its word is received. -/
def State.todInhibited (s : State) : Bool :=
  s.atc.todHold || s.atc.seq.isFetch || match s.cpc.fetch with
    | some f => f.data.isSome
    | none => false

/-- X1 of the ATC: the TOD match (60 R704), SPINT (60 R712), PRIV (11 R124). The model's choice: all come after the write of a TOE in
this cycle, so PRIV wins over a TOE to `CA2` (log 46), a bit 12 that a TOE clears is 1 again at once (log 60), and the mask a
TOE writes to `IMR` applies (log 61); and they come after the checks of a virtual operation or TVA in this cycle, which see the old
Privilege Flag (log 65). -/
def State.atcX1 (s : State) : State :=
  if s.plat.atcPresent then
    let s := s.post (itaBit 4 (s.atc.tod == s.atc.itmr && !s.todInhibited) ||| itaBit 12 s.now.spint)
    if s.now.privX0 then { s with atc := { s.atc with ca2 := putBit s.atc.ca2 1 s.now.privX1 } } else s
  else s

/-- I6 takes the C.C. MATCH of a JMPIB or JMPIC that is due in this cycle (46 R637). -/
def State.writeMatch (s : State) : State :=
  match s.pipe.dueMatch with
  | some b => { s.setIndAt 6 b with pipe := { s.pipe with dueMatch := none } }
  | none => s

/-- X1: the ATC's, the late C.C. MATCH, and EACI, which ends EAC BUSY (10 R58; 46 R637). The model's choice (log 44): EACI asserted in
the cycle of an EAF wins, and I7 ends 0. -/
def State.x1 (s : State) : State := if s.now.eaci then s.writeMatch.atcX1.setIndAt 7 false else s.writeMatch.atcX1

/-- A held cycle counts for a fetch that was aborted: its interrupt shows from the second cycle after the address on, also when the
RCV already waits (60 R721; log 45). -/
def State.ageAborted (s : State) : State :=
  match s.cpc.fetch with
  | some { data := none, age := n } => { s with cpc := { s.cpc with fetch := some { data := none, age := n + 1 } } }
  | _ => s

/-- The C.C. MATCH that was due waits for the next cycle: no instruction has executed in this one (46 R637; 70 R796; log 54). -/
def State.deferMatch (s : State) : State :=
  { s with pipe := { s.pipe with lateMatch := s.pipe.dueMatch, dueMatch := none } }

/-- A cycle in which the pipeline is held (10 R49). -/
def State.held (s : State) : State := s.ageAborted.deferMatch.x1

/-- The end of a cycle that is not held: `e` was recognised at its start, or not. -/
def State.finish (s : State) (e : Option Entry) : State :=
  match e with
  | some e => s.x1.enter e
  | none => s.x1.advance

/-- What is recognised in a cycle whose slot is `i`, from the state at its start (60 R720 to R723). The model's choice (log 58): a
voided slot recognises whatever its word. -/
def State.recognised (s : State) (i : Option Instr) : Option Entry :=
  match i with
  | none => s.wanted
  | some i => if interruptible i then s.wanted else none

/-- A cycle without reset (10 R46, R49; 60 R722). -/
def State.runCycle (s : State) : Result :=
  if s.busWait then .next s.held
  else match s.slot with
  | .error r => .refused r
  | .ok none => .next (s.voidedSlot.finish (s.recognised none))
  | .ok (some i) =>
    if s.waits i then .next s.held
    else andThen (executeSlot i s) fun t => .next (t.finish (s.recognised (some i)))

/-! ### Reset (70 R760, R762) -/

/-- The FIFO halts at the first cycle of a reset, after loading the next address. -/
def State.haltFifo (s : State) : State := (s.fifoClock).setFifoRun false

/-- What the first cycle of a reset executes: the instruction in the execute stage, one step of a field instruction; a held one
is abandoned (92 D51). The model's choice (log 56): an RCV that a trap or an interrupt would release is not held. -/
def State.resetSlot (s : State) : Result :=
  if s.busWait then .next s
  else match s.slot with
  | .error r => .refused r
  | .ok none => .next s.voidedSlot
  | .ok (some i) =>
    if s.waits i then .next s
    else executeSlot i { s with pipe := { s.pipe with fieldCycles := 1 } }

/-- The ATC while PMRST is asserted: `ITA.16` is set, the hidden flags are clear (70 R762). The associative memory keeps its
contents, but for the RR bits if `clearsRr` (21 R232; 11 R143; log 47). The model's choice (log 55): the hazard of the sixteenth RR bit
is over. -/
def Atc.resetBy (a : Atc) (clearsRr : Bool) : Atc :=
  { a with
    am := if clearsRr then mapAm (fun e => { e with rr := false }) a.am else a.am
    ita := putBit a.ita 16 true
    binFull := false
    binPending := false
    itaRead := false
    synLock := false
    refReq := false
    reqsOnce := false
    busy2 := false
    reqs := false
    rrResetting := false
    seq := .idle
    seqGoesOn := false
    cpcInitiated := false
    memErr := false
    mdee := false }

/-- Every cycle with PMRST asserted (70 R760), a late C.C. MATCH being written as in any cycle. The model's choice (log 53): the
Breakpoint trap bit stays, a hit on its way to the tracked stage is lost. -/
def State.resetActions (s : State) : State :=
  let s := s.writeMatch
  { s with
    cpc := { s.cpc with
      ca1 := (s.cpc.ca1 &&& 0xC0#8) ||| 0x04#8
      ind := putBit s.cpc.ind 7 false
      fifoRun := false
      fetch := none }
    pipe := { s.pipe with
      cr := 0
      ir := s.isuAt 0
      iar := 0
      skip := 2
      crNext := none
      fifoShifted := false
      vpbsy := s.now.vpbsy
      pmrstHeld := true
      prev := none }
    atc := if s.plat.atcPresent then s.atc.resetBy s.plat.resetClearsRr else s.atc
    bkpt := { s.bkpt with enable := false, crPresented := false, presents := none, irHit := false } }

/-- A cycle with PMRST asserted. The model's choice (log 59): the ATC samples neither PRIV nor SPINT in it. -/
def State.resetCycle (s : State) : Result :=
  if s.pipe.pmrstHeld then .next s.resetActions
  else if s.ca1At 13 then .refused .nonUserMode
  else andThen s.resetSlot fun t => .next t.haltFifo.resetActions

/-- The cycle that starts in `s`. `CA1.NUM` = 1 is outside the spec (93 U3). -/
def State.cycle (s : State) : Result :=
  if s.now.pmrst then s.resetCycle
  else if s.ca1At 13 then .refused .nonUserMode
  else ({ s with pipe := { s.pipe with pmrstHeld := false } } : State).runCycle

/-- `s` with the first word `w` and the second word `l` of an instruction in the stages from which the next cycle takes its
instruction, and nothing voided. -/
def State.loadSlot (s : State) (w l : Half) : State :=
  { s with pipe := { s.pipe with xr := w, ir := l, skip := 0 } }

end Sys2Proof.Machine
end

