-- ==== Sys2Proof/Machine/Step.lean ====
section
/-! DEFINITION. The step: one cycle of the pipeline, with the events that come before it. -/

namespace Sys2Proof.Machine

/-- One step of the machine: the events before the cycle, then the cycle. -/
def step (s : State) : Host.Outcome State Fault Refusal :=
  match s.begin with
  | .error r => .refused r
  | .ok b => b.cycle

/-- `s` with the table word `w` where the next step takes its instruction: the execute stage, its literal in the interpret
stage, nothing voided (10 R46 to R48; log 5). -/
def State.withFetchWord (s : State) (nbits w : Nat) : State :=
  s.loadSlot (BitVec.ofNat 16 (w % 2 ^ nbits)) (BitVec.ofNat 16 (w % 2 ^ nbits / 2 ^ 16))

end Sys2Proof.Machine
end

