-- ==== Sys2Proof/Safety.lean ====
section
/-! DEFINITION. The terms the claims use: what an instruction leaves unchanged, what its indicators say, the invariant of a step. -/

namespace Sys2Proof.Machine

/-! ### Frames -/

/-- Every general register outside `ks` is as before. -/
def KeepsRsu (s t : State) (ks : List RsuNum) : Prop := ∀ k, k ∉ ks → t.rsu k = s.rsu k

/-- Every indicator I1 to I8 outside `ns` is as before. -/
def KeepsInd (s t : State) (ns : List Nat) : Prop := ∀ n, 1 ≤ n → n ≤ 8 → n ∉ ns → t.indAt n = s.indAt n

/-- Every byte of memory reads as before. -/
def KeepsMemory (s t : State) : Prop := ∀ a, t.mem.byte a = s.mem.byte a

/-- Everything but the general registers, I7 to I1, the memory bytes and the free-value counter is as before: the other registers
of the CPC, the pipeline, the ATC, the check bits, the platform, the inputs. -/
def KeepsRest (s t : State) : Prop :=
  { t.cpc with rsu := s.cpc.rsu, ind := s.cpc.ind } = s.cpc ∧ t.pipe = s.pipe ∧ t.atc = s.atc ∧ t.mem.err = s.mem.err ∧
    t.plat = s.plat ∧ t.bkpt = s.bkpt ∧ t.inputs = s.inputs ∧ t.now = s.now

/-- Only the registers `ks` and the indicators `ns` may have changed. -/
def Frame (s t : State) (ks : List RsuNum) (ns : List Nat) : Prop :=
  KeepsRsu s t ks ∧ KeepsInd s t ns ∧ KeepsMemory s t ∧ KeepsRest s t

/-- Every byte operand but `a` is as before. -/
def KeepsOtherBytes (s t : State) (a : ByteAddr) : Prop := ∀ b, b ≠ a → t.byteOp b = s.byteOp b

/-! ### Results -/

/-- I1, I2 and I3 say that `x` is negative, zero or positive (10 R59). -/
def SignOf (t : State) (x : Int) : Prop :=
  (t.indAt 1 = true ↔ x < 0) ∧ (t.indAt 2 = true ↔ x = 0) ∧ (t.indAt 3 = true ↔ 0 < x)

/-- The number a packed decimal byte stands for (44 R522). -/
def bcdValue (b : Byte) : Nat := 10 * (leftDigit b).toNat + (rightDigit b).toNat

/-- Indicator I4 as a number. -/
def carryOf (s : State) : Nat := (s.indAt 4).toNat

/-- I1, I2 and I3 say `lt`, `eq` and `gt` (44 R524). -/
def OrderOf (t : State) (lt eq gt : Prop) : Prop := (t.indAt 1 = true ↔ lt) ∧ (t.indAt 2 = true ↔ eq) ∧ (t.indAt 3 = true ↔ gt)

/-- `RSU[j]` becomes `a + b + c` with the carry, the signed overflow and the sign in the indicators (44 R521, R532). -/
def AddsWord (s t : State) (j : RsuNum) (a b : Word) (c : Nat) : Prop :=
  t.rsu j = BitVec.ofNat 32 (a.toNat + b.toNat + c) ∧
  (t.indAt 4 = true ↔ 2 ^ 32 ≤ a.toNat + b.toNat + c) ∧
  (t.indAt 5 = true ↔ a.toInt + b.toInt + c < -2 ^ 31 ∨ 2 ^ 31 ≤ a.toInt + b.toInt + c) ∧
  SignOf t (t.rsu j).toInt ∧ Frame s t [j] [1, 2, 3, 4, 5]

/-- `RSU[j]` becomes `a - b - borrow`; I4 is 1 for no borrow (44 R521, R533). -/
def SubtractsWord (s t : State) (j : RsuNum) (a b : Word) (borrow : Nat) : Prop :=
  t.rsu j = BitVec.ofInt 32 (a.toInt - b.toInt - borrow) ∧
  (t.indAt 4 = true ↔ b.toNat + borrow ≤ a.toNat) ∧
  (t.indAt 5 = true ↔ a.toInt - b.toInt - borrow < -2 ^ 31 ∨ 2 ^ 31 ≤ a.toInt - b.toInt - borrow) ∧
  SignOf t (t.rsu j).toInt ∧ Frame s t [j] [1, 2, 3, 4, 5]

/-- `BJ` becomes `a + b + c` with the carry and the sign in the indicators (44 R546). -/
def AddsByte (s t : State) (j : ByteAddr) (a b : Byte) (c : Nat) : Prop :=
  t.byteOp j = BitVec.ofNat 8 (a.toNat + b.toNat + c) ∧ (t.indAt 4 = true ↔ 2 ^ 8 ≤ a.toNat + b.toNat + c) ∧
  SignOf t (t.byteOp j).toInt ∧ KeepsOtherBytes s t j ∧ Frame s t [byteReg j] [1, 2, 3, 4]

/-- `BJ` becomes `a - b - borrow`; I4 is 1 for no borrow (44 R547). -/
def SubtractsByte (s t : State) (j : ByteAddr) (a b : Byte) (borrow : Nat) : Prop :=
  t.byteOp j = BitVec.ofInt 8 (a.toInt - b.toInt - borrow) ∧ (t.indAt 4 = true ↔ b.toNat + borrow ≤ a.toNat) ∧
  SignOf t (t.byteOp j).toInt ∧ KeepsOtherBytes s t j ∧ Frame s t [byteReg j] [1, 2, 3, 4]

/-- I5 and I6 after the checks of the bytes `bs`: set by a digit above 9, by a zone other than 3, else as before (44 R560). -/
def ChecksBytes (s t : State) (bs : List Byte) : Prop :=
  (t.indAt 5 = true ↔ s.indAt 5 = true ∨ ∃ b ∈ bs, ¬(leftDigit b).toNat ≤ 9 ∨ ¬(rightDigit b).toNat ≤ 9) ∧
  (t.indAt 6 = true ↔ s.indAt 6 = true ∨ ∃ b ∈ bs, leftDigit b ≠ 3#4)

/-- A packed decimal byte instruction: `sum`, taken modulo 100, to `BJ` if the four digits are decimal; the checks; the sign of
the byte (44 R550). -/
def PacksByte (s t : State) (j k : ByteAddr) (sum : Int) (carry : Prop) : Prop :=
  (isPacked (s.byteOp j) = true → isPacked (s.byteOp k) = true →
    isPacked (t.byteOp j) = true ∧ (bcdValue (t.byteOp j) : Int) = sum % 100 ∧ (t.indAt 4 = true ↔ carry)) ∧
  ChecksBytes s t [s.byteOp j, s.byteOp k] ∧ SignOf t (t.byteOp j).toInt ∧ KeepsOtherBytes s t j ∧
  Frame s t [byteReg j] [1, 2, 3, 4, 5, 6]

/-- The selected bits of the bit pair of `b` say `v`: both, the left, the right, or with mask 00 either (45 R572). -/
def PairSays (b : Byte) (sel : Sel) (v : Bool) : Prop :=
  let right := 2 * (sel.toNat / 4) + 1
  if sel.toNat % 4 = 0 then bitAt b right = v ∨ bitAt b (right + 1) = v
  else (bitAt sel 1 = true → bitAt b right = v) ∧ (bitAt sel 2 = true → bitAt b (right + 1) = v)

/-! ### Jumps -/

/-- Nothing but the jump and the skip count may have changed. -/
def KeepsButFlow (s t : State) : Prop :=
  { t with pipe := { t.pipe with crNext := s.pipe.crNext, skip := s.pipe.skip } } = s

/-- `CR` goes to `a` and the two words behind the jump are voided (45 R571). -/
def JumpsNow (t : State) (a : Half) : Prop := t.pipe.crNext = some a ∧ t.pipe.skip = 2#2

/-- `CR` goes to `a` and the two words behind the jump still execute (45 R571). -/
def JumpsLater (s t : State) (a : Half) : Prop := t.pipe.crNext = some a ∧ t.pipe.skip = s.pipe.skip

/-- `CSA + d`, modulo 65536. -/
def AddressAhead (s : State) (d : Nat) : Half := BitVec.ofNat 16 (s.pipe.ear.toNat + d)

/-- `CSA - d`, modulo 65536, for `d` up to 65536. -/
def AddressBehind (s : State) (d : Nat) : Half := BitVec.ofNat 16 (s.pipe.ear.toNat + (65536 - d))

/-- An instruction that jumps at once to `a` if `c`, and else does nothing. -/
def JumpsNowIf (i : Instr) (s : State) (c : Prop) (a : Half) : Prop :=
  ∃ t, exec i s = .next t ∧ KeepsButFlow s t ∧ (c → JumpsNow t a) ∧ (¬c → t = s)

/-- An instruction that jumps with delay to `a` if `c`, and else does nothing. -/
def JumpsLaterIf (i : Instr) (s : State) (c : Prop) (a : Half) : Prop :=
  ∃ t, exec i s = .next t ∧ KeepsButFlow s t ∧ (c → JumpsLater s t a) ∧ (¬c → t = s)

/-- A two-word jump: to the literal `l` if `c`, else over it (45 R571). -/
def JumpsLongIf (i : Instr) (s : State) (c : Prop) (l : Half) : Prop :=
  ∃ t, exec i s = .next t ∧ KeepsButFlow s t ∧ (c → JumpsNow t l) ∧
    (¬c → t.pipe.crNext = s.pipe.crNext ∧ t.pipe.skip = 1#2)

/-- An instruction that voids the next word if `c`, and else does nothing. -/
def SkipsIf (i : Instr) (s : State) (c : Prop) : Prop :=
  ∃ t, exec i s = .next t ∧ KeepsButFlow s t ∧ t.pipe.crNext = s.pipe.crNext ∧ (c → t.pipe.skip = 1#2) ∧ (¬c → t = s)

/-! ### Memory -/

/-- Everything but the general registers, `SR`, `WTR`, `M6WT`, the outstanding fetch, the memory, the ATC and the free-value
counter is as before. -/
def KeepsOutsideMemory (s t : State) : Prop :=
  { t with
    cpc := { t.cpc with
      rsu := s.cpc.rsu, sr := s.cpc.sr, wtr := s.cpc.wtr, m6wt := s.cpc.m6wt, fetch := s.cpc.fetch }
    mem := s.mem
    atc := s.atc
    fresh := s.fresh } = s

/-- The ATC registers a memory operation has no business with are as before: the controls, masks, timers, `BIN`, `PSR`, `PMR`. -/
def KeepsAtcControls (s t : State) : Prop :=
  t.atc.ca2 = s.atc.ca2 ∧ t.atc.imr = s.atc.imr ∧ t.atc.itmr = s.atc.itmr ∧ t.atc.tod = s.atc.tod ∧ t.atc.bin = s.atc.bin ∧
    t.atc.binFull = s.atc.binFull ∧ t.atc.psr = s.atc.psr ∧ t.atc.pmr = s.atc.pmr ∧ t.atc.synLock = s.atc.synLock

/-- The word at `pa` can be read without an error: its check bits are those of its data. -/
abbrev State.Readable (s : State) (pa : Nat) : Prop := s.mem.errAt pa = 0#7

/-- The word at `pa` has an error that cannot be corrected (20 R209). -/
abbrev State.Lost (s : State) (pa : Nat) : Prop := (s.checked pa).2 = .uncorrectable

/-- The check bits that memory has for the word at `pa` (20 R181). -/
def State.checkAt (s : State) (pa : Nat) : BitVec 7 := checkBits (s.mem.word pa) ^^^ s.mem.errAt pa

/-- What the locked Syndrome Register sends with a store: what it held, or, for a partial store, the check bits of the word as its read has
loaded them; on machines that follow 11 R131 and not 20 R203 and R209 what it held also then (a parameter, log 13). -/
def State.lockedCheck (s : State) (pa : Nat) (tags : Digit) : BitVec 7 :=
  if tags = 0xF#4 ∨ s.plat.lockedReadLoads = false then s.atc.syn else s.checkAt pa

/-- The Syndrome Register after a store: locked, what it sent; else the check bits generated, or those read with a word that cannot be
corrected. The error bit says what the read of a partial store found (20 R203, R209; 11 R131; log 13). -/
def LatchesStore (s t : State) (pa : Nat) (tags : Digit) : Prop :=
  (t.atc.syn =
    if s.atc.synLock = true then s.lockedCheck pa tags
    else if tags ≠ 0xF#4 ∧ s.Lost pa then s.checkAt pa else checkBits (t.mem.word pa)) ∧
  t.atc.synEr = if tags = 0xF#4 then s.atc.synEr else decide ((s.checked pa).2 ≠ .ok)

/-- A store of `d` in word `pa` of memory. The bytes whose tag is 1 become those of `d`; the others stay, an error in them corrected. The
check bits become those of the word, or what the locked Syndrome Register sends; the register follows. A partial store on a word that
cannot be corrected leaves it. Every other byte reads as before (20 R203, R208, R209; 11 R131; log 13). -/
def StoresAt (s t : State) (pa : Nat) (tags : Digit) (d : Word) : Prop :=
  (tags = 0xF#4 ∨ ¬s.Lost pa →
    (∀ b : BitVec 2, t.mem.byte (4 * pa + b.toNat) = if bitAt tags (4 - b.toNat) then byteOf d b else byteOf (s.checked pa).1 b) ∧
    (s.Readable pa → ∀ b : BitVec 2, bitAt tags (4 - b.toNat) = false →
      t.mem.byte (4 * pa + b.toNat) = s.mem.byte (4 * pa + b.toNat)) ∧
    t.mem.errAt pa = if s.plat.atcPresent = true ∧ s.atc.synLock = true then s.lockedCheck pa tags ^^^ checkBits (t.mem.word pa) else 0#7) ∧
  (tags ≠ 0xF#4 → s.Lost pa → t.mem = s.mem) ∧ (s.plat.atcPresent = true → LatchesStore s t pa tags) ∧
  ∀ n, n < 4 * pa ∨ 4 * pa + 4 ≤ n → t.mem.byte n = s.mem.byte n

/-- The outstanding fetch will deliver the word at word address `pa`, byte 0 first (20 R182), an error in it corrected, or, if it cannot
be corrected, some word with that status (20 R209). -/
def WillDeliver (s t : State) (pa : Nat) : Prop :=
  ∃ f : Fetched, t.cpc.fetch = some { data := some f, age := 0 } ∧ f.status = (s.checked pa).2 ∧
    (¬s.Lost pa → f.word = (s.checked pa).1) ∧
    (s.Readable pa → f.status = .ok ∧ ∀ b : BitVec 2, byteOf f.word b = s.mem.byte (4 * pa + b.toNat))

/-! ### Virtual messages (21) -/

/-- The address word of a virtual message: the protection code in place of the two low bits (21 R222). -/
def virtualWord (a : Word) (pc : BitVec 2) : Word := a.extractLsb' 2 30 ++ pc

/-- The ATC takes the virtual message from `a`: it is there, `CA2` bits 2 and 4 are not both 1, and unless Virtual Equals Real is on the
hazard of the sixteenth RR bit is over, the page size is one, at most one entry matches, and No Match is not masked where none does
(21 R222, R228, R232, R240; 93 U10 to U14). -/
abbrev State.Sends (s : State) (a : Word) : Prop :=
  s.plat.atcPresent = true ∧ ¬(s.ca2At 2 = true ∧ s.ca2At 4 = true) ∧
    (s.ca2At 9 = false → s.atc.rrResetting = false ∧ s.pageSizeOk = true ∧ (s.hits a).length ≤ 1 ∧
      (s.hits a = [] → bitAt s.atc.imr 10 = false))

/-- `a` is the monitored address: bits 32 to 3, or 24 to 3 in the 24-bit mode, are those of `AMR` (21 R241). -/
abbrev State.Monitors (s : State) (a : Word) : Prop :=
  a.toNat / 4 % (if s.ca2At 5 then 2 ^ 30 else 2 ^ 22) = s.atc.amr.toNat / 4 % (if s.ca2At 5 then 2 ^ 30 else 2 ^ 22)

/-- The page of entry `i` lets the code through: permitted, or the violation masked (21 R225, R227). That a masked one also reaches the
changed page step is the model's choice (log 64). -/
abbrev State.LetsThrough (s : State) (i : Nat) (pc : BitVec 2) : Prop :=
  s.permitted (s.entry i) pc = true ∨ bitAt s.atc.imr 11 = true

/-- The condition of bit `n` of `ITA` arises for the virtual message from `a` with the code `pc` and the tags `tags`: the monitors of
stores and of fetches for execute, Changed Page, No Match, Access Violation (21 R222, R226, R231, R240). -/
abbrev State.Arises (s : State) (a : Word) (pc : BitVec 2) (tags : Digit) (n : Nat) : Prop :=
  (n = 6 ∧ tags ≠ 0#4 ∧ s.ca2At 3 = true ∧ s.ca2At 4 = true ∧ s.ca2At 8 = false ∧ s.Monitors a) ∨
  (n = 7 ∧ tags ≠ 0#4 ∧ (s.ca2At 3 = true ∧ s.ca2At 4 = false ∧ s.ca2At 8 = false ∧ s.Monitors a ∨
    s.ca2At 8 = true ∧ s.ca2At 3 = false)) ∨
  (n = 8 ∧ pc = 3#2 ∧ s.ca2At 2 = true ∧ s.Monitors a) ∨
  (s.ca2At 9 = false ∧
    ((n = 9 ∧ tags ≠ 0#4 ∧ ∃ i ∈ s.hits a, s.LetsThrough i pc ∧ (s.entry i).cp = false) ∨ (n = 10 ∧ s.hits a = []) ∨
      (n = 11 ∧ ∃ i ∈ s.hits a, s.permitted (s.entry i) pc = false)))

/-- A condition that is not masked stops the virtual message (21 R226, R227). -/
abbrev State.Stops (s : State) (a : Word) (pc : BitVec 2) (tags : Digit) : Prop :=
  ∃ n ∈ [6, 7, 8, 9, 10, 11], s.Arises a pc tags n ∧ bitAt s.atc.imr n = false

/-- The installed word that the address `a` reaches through entry `i` (21 R230). -/
def State.mapped (s : State) (a : Word) (i : Nat) : Nat := ((s.realAddress a (s.entry i)).extractLsb' 2 22).toNat

/-- The word address a virtual message goes on to: its own with Virtual Equals Real, else that of its page (21 R228, R230). -/
def State.landing (s : State) (a : Word) : Nat :=
  if s.ca2At 9 then a.toNat / 4 % 2 ^ 22 else s.mapped a ((s.hits a).headD 0)

/-- The associative memory after a virtual message: with Virtual Equals Real and without a match as before; else the entry found is
referenced, and changed if a store was let through, by a masked violation too (the model's choice, log 64) (21 R222, R227, R231, R232). -/
def LeavesEntries (s t : State) (a : Word) (pc : BitVec 2) (tags : Digit) : Prop :=
  (s.ca2At 9 = true ∨ s.hits a = [] → t.atc.am = s.atc.am) ∧
  ∀ i, s.ca2At 9 = false → s.hits a = [i] →
    (∀ m, m ≠ i → t.entry m = (s.setReferenced i).entry m) ∧
    (tags ≠ 0#4 ∧ s.LetsThrough i pc → t.entry i = { (s.setReferenced i).entry i with cp := true }) ∧
    (¬(tags ≠ 0#4 ∧ s.LetsThrough i pc) → t.entry i = (s.setReferenced i).entry i)

/-- What a virtual message leaves in the ATC, stopped or not: the conditions that are not masked posted, the address in `VARB`, the copy
of a fetch for execute in `AMR`, the entries, and in `RAR` and `DDR` the tags and, if there is one, the address it goes on to (21 R222,
R226 to R228, R240). -/
def VirtualLeaves (s t : State) (a : Word) (pc : BitVec 2) (tags : Digit) : Prop :=
  (∀ n, 4 ≤ n → n ≤ 12 → (bitAt t.atc.ita n = true ↔
    bitAt s.atc.ita n = true ∨ (s.Arises a pc tags n ∧ bitAt s.atc.imr n = false))) ∧
  t.atc.varb = s.eff a ∧ t.atc.amr = (if s.ca2At 4 = true ∧ pc = 3#2 then s.eff a else s.atc.amr) ∧
  LeavesEntries s t a pc tags ∧ t.atc.ddr = t.atc.rar ∧ t.atc.rar.toNat / 2 ^ 24 % 16 = tags.toNat ∧
  (s.ca2At 9 = true ∨ s.hits a ≠ [] → t.atc.rar.toNat / 4 % 2 ^ 22 = s.landing a)

/-! ### Fields -/

/-- Everything but the general registers, I7 to I1, the tally, `SR`, `M6WT` and the free-value counter is as before. -/
def KeepsOutsideFields (s t : State) : Prop :=
  { t with
    cpc := { t.cpc with
      rsu := s.cpc.rsu, ind := s.cpc.ind, tally := s.cpc.tally, sr := s.cpc.sr, m6wt := s.cpc.m6wt }
    fresh := s.fresh } = s

/-- The word `w` with the byte pointer `p`, the word address kept (10 R43). -/
def pointedAt (w : Word) (p : BitVec 2) : Word := w.extractLsb' 2 30 ++ p

/-- The word `w` with its byte pointer moved by `d`. -/
def movedBy (w : Word) (d : BitVec 2) : Word := pointedAt w (w.extractLsb' 0 2 + d)

/-- One more or one less, as a step to the right or to the left. -/
def unitStep (dec : Bool) : BitVec 2 := if dec then 3#2 else 1#2

/-- The pointer of the unit stands at the last byte of its word in the direction of the step (42 R442). -/
def AtEdge (s : State) (k : RsuNum) (dec : Bool) : Prop := s.pointer (evenOf k) = if dec then 0#2 else 3#2

/-- `SR` after a field step: `DFP` (bit 1) is the direction, the overflow flags of the units that crossed are set, every other
bit is as before (42 R442, R445). -/
def StepsFlags (s t : State) (units : List RsuNum) (dec : Bool) : Prop :=
  ∀ n, 1 ≤ n → n ≤ 16 →
    (bitAt t.cpc.sr n = true ↔
      if n = 1 then dec = true else bitAt s.cpc.sr n = true ∨ ∃ k ∈ units, n = k.toNat / 2 - 2 ∧ AtEdge s k dec)

/-- The MARS6 data register takes the byte `b` at its pointer, and the write tag of that byte is set (42 R442). -/
def PutsField (s t : State) (b : Byte) : Prop :=
  t.rsu 13 = putByte (s.rsu 13) (s.pointer 12) b ∧
    ∀ n, 1 ≤ n → n ≤ 4 → bitAt t.cpc.m6wt n = (bitAt s.cpc.m6wt n || decide (n + (s.pointer 12).toNat = 4))

/-- The byte pointers of the units `units` have moved by one, every other register but those in `ks` is as before. -/
def MovesPointers (s t : State) (units ks : List RsuNum) (dec : Bool) : Prop :=
  (∀ k ∈ units, t.rsu (evenOf k) = movedBy (s.rsu (evenOf k)) (unitStep dec)) ∧ KeepsRsu s t (units.map evenOf ++ ks)

/-- `s` with `n` byte cycles left to the field instruction of this step. -/
def State.withCycles (s : State) (n : Nat) : State := { s with pipe := { s.pipe with fieldCycles := n } }

/-- A multi-cycle field instruction (42 R441, R443): nothing with the tally 0; else one byte step `one`, and after it, unless the
step ends the instruction, the tally is used up or no cycle is left, the same instruction again. -/
def RunsBytes (i : Instr) (one : State → State → Prop) (ends : State → Prop) : Prop :=
  ∀ s : State, (s.cpc.tally = 0#16 → exec i s = .next s) ∧
    (s.cpc.tally ≠ 0#16 → s.pipe.fieldCycles ≠ 0 → ∃ u, one s u ∧
      ((ends s ∨ u.cpc.tally = 0#16 ∨ s.pipe.fieldCycles = 1) → exec i s = .next u) ∧
      (¬ends s → u.cpc.tally ≠ 0#16 → s.pipe.fieldCycles ≠ 1 →
        ∃ t, exec i (u.withCycles (s.pipe.fieldCycles - 1)) = .next t ∧ exec i s = .next (t.withCycles s.pipe.fieldCycles)))

/-- The byte step of an instruction from MARS4 and MARS5 into MARS6, going left: `b` is the byte put, `ns` the indicators that
may change (43 R481; 44 R525). -/
def ThreeFieldStep (s t : State) (b : Byte) (ns : List Nat) : Prop :=
  PutsField s t b ∧ MovesPointers s t [9, 11, 13] [13] true ∧ StepsFlags s t [9, 11, 13] true ∧ t.cpc.tally = s.cpc.tally - 1 ∧
    KeepsInd s t ns ∧ KeepsOutsideFields s t

/-- One of the pointers of MARS4, MARS5 and MARS6 stands at the left end of its word. -/
def ThreeAtEdge (s : State) : Prop := AtEdge s 9 true ∨ AtEdge s 11 true ∨ AtEdge s 13 true

/-! ### Internal registers -/

/-- The bits of its halfword that an internal register has (10 R51 to R67): those a TOI writes and a TII reads back. -/
def iruMask (n : BitVec 5) : Half :=
  match n.toNat with
  | 9 => 0xFFDF
  | 18 => 0x00FF
  | 26 => 0x001F
  | 27 => 0xFF00
  | 28 => 0x000F
  | _ => 0xFFFF

/-- The internal registers that a TOI writes and a TII reads back as plain storage: all but the Restore FIFO and the
indicators (10 R51). -/
def isPlainIru (n : BitVec 5) : Bool :=
  decide (n.toNat < 8) || decide (9 ≤ n.toNat ∧ n.toNat ≤ 12) || decide (17 ≤ n.toNat ∧ n.toNat ≤ 20) || n == 24#5 ||
    decide (26 ≤ n.toNat ∧ n.toNat ≤ 28)

/-- An internal register is there (10 R51). -/
def isIru (n : BitVec 5) : Bool := isPlainIru n || n == 8#5 || n == 16#5

/-- The halfword of a word that an internal register uses: the right one up to number 15, the left one from 16 on (10 R52). -/
def iruHalf (n : BitVec 5) (w : Word) : Half := if n.toNat < 16 then rightHalf w else leftHalf w

/-- The other halfword. -/
def otherHalf (n : BitVec 5) (w : Word) : Half := if n.toNat < 16 then leftHalf w else rightHalf w

/-! ### External registers -/

/-- The ATC registers that a TOE writes and a TIE reads back as plain storage: CA2, IMR, ITMR, TOD, AMR, PSR and PMR (11 R122). -/
def isPlainEru (n : BitVec 5) : Bool :=
  n == 8#5 || n == 10#5 || n == 11#5 || n == 12#5 || n == 13#5 || n == 15#5 || n == 21#5

/-- The bits that such a register has (11 R123 to R137). -/
def eruMask (n : BitVec 5) : Word :=
  match n.toNat with
  | 8 => 0x0000FFFF
  | 10 => 0x0000FFFF
  | 15 => 0x00000007
  | 21 => 0xFFFFFC00
  | _ => 0xFFFFFFFF

/-- The scratch pad entry that a TIE (`load`) or TOE through ERU `32 + n` reaches (20 R192 to R195). -/
def State.entryOf (s : State) (n : BitVec 5) (load : Bool) : Nat :=
  if n = 6#5 ∨ bitAt (s.operandPointer n) 8 = true then
    64 + (s.cpc.sptr.toNat + if load then 31 else 0) % 32
  else (s.operandPointer n).toNat % 128

/-- The installed word of scratch pad entry `e` (20 R187). -/
def State.scratchWord (s : State) (e : Nat) : Nat := s.memWords - 128 + e

/-- What the access leaves in the pointers: in stack mode the Stack Pointer moves, else the seven low bits of the Operand
Pointer stay, go up or go down by one (20 R194). -/
def MovesOperand (s t : State) (n : BitVec 5) (load : Bool) : Prop :=
  if n = 6#5 ∨ bitAt (s.operandPointer n) 8 = true then
    t.cpc.sptr.toNat = (s.cpc.sptr.toNat + if load then 31 else 1) % 32 ∧
      t.cpc.optr1 = s.cpc.optr1 ∧ t.cpc.optr2 = s.cpc.optr2
  else
    t.cpc.sptr = s.cpc.sptr ∧ (t.operandPointer n).toNat / 128 = (s.operandPointer n).toNat / 128 ∧
      (t.operandPointer n).toNat % 128 =
        ((s.operandPointer n).toNat + if n.toNat % 3 = 1 then 1 else if n.toNat % 3 = 2 then 127 else 0) % 128 ∧
      (if n.toNat < 3 then t.cpc.optr2 = s.cpc.optr2 else t.cpc.optr1 = s.cpc.optr1)

/-! ### Reset -/

/-- The values that the spec gives the machine while PMRST is asserted and after it (10 R90; 11 R143; 70 R760, R762). -/
def State.HasReset (t : State) : Prop :=
  t.pipe.cr = 0 ∧ t.pipe.ir = t.isuAt 0 ∧ t.pipe.iar = 0 ∧ t.pipe.skip = 2#2 ∧ t.cpc.fifoRun = false ∧ t.cpc.fetch = none ∧
    t.ca1At 11 = true ∧ (∀ n ∈ [9, 10, 12, 13, 14], t.ca1At n = false) ∧ t.indAt 7 = false ∧ t.indAt 8 = false ∧
    (t.plat.atcPresent = true → bitAt t.atc.ita 16 = true ∧ t.atc.binFull = false ∧ t.atc.itaRead = false ∧
      t.atc.binPending = false ∧ t.atc.synLock = false ∧ t.atc.refReq = false ∧ t.reqsHolds = false ∧
      t.atc.reqsOnce = false ∧ t.atc.seq = .idle)

/-! ### The invariant of a step -/

/-- Tables in canonical form: the memory and the Breakpoint RAM. -/
abbrev State.TablesCanonical (s : State) : Prop := s.mem.wf = true ∧ Table.canonical false s.bkpt.ram = true

/-- The bits that read as 0: `SR` bit 6 (10 R56), `ITA` bits 1 to 3 and 15 (11 R125). -/
abbrev State.ReservedZero (s : State) : Prop := bitAt s.cpc.sr 6 = false ∧ s.atc.ita &&& ~~~itaImplemented = 0#16

/-- Some entry of the associative memory is unreferenced (21 R232). -/
abbrev State.SomeUnreferenced (s : State) : Prop := allReferenced s.atc.am = false

/-- The skip counter is not 3 (10 R66). -/
abbrev State.SkipLegal (s : State) : Prop := s.pipe.skip ≠ 3#2

/-- No jump, no FIFO move, no breakpoint presentation and no C.C. MATCH that was due is left over from a cycle. -/
abbrev State.Settled (s : State) : Prop :=
  s.pipe.crNext = none ∧ s.pipe.fifoShifted = false ∧ s.bkpt.presents = none ∧ s.pipe.dueMatch = none

/-- The invariant. -/
abbrev State.Inv (s : State) : Prop :=
  s.TablesCanonical ∧ s.ReservedZero ∧ s.SomeUnreferenced ∧ s.SkipLegal ∧ s.Settled

/-- A step of `s` is not refused: the program keeps to what the spec covers (93). There is no fault to exclude. -/
def State.SafeStep (s : State) : Prop := ∀ r, step s ≠ .refused r

/-- The next `n` steps from `s` are not refused. -/
def State.SafeFor : Nat → State → Prop
  | 0, _ => True
  | n + 1, s => ∃ t, step s = .next t ∧ State.SafeFor n t

end Sys2Proof.Machine
end

