-- ==== Sys2Proof/Certificates/Slice0/Obligations.lean ====
section
/-! DEFINITION. The statements for the provers. -/

open Sys2Proof Sys2Proof.Machine

/-! ### Words and bytes of arithmetic (44) -/

/-- AW, AWC and AWL, SW, SWC and SWL: the sum or the difference, I4 (carry, 1 for no borrow), I5 and the sign, and nothing else (44
R521, R532 to R535, R542, R543). -/
def Obligations.WordSumsAndDifferences : Prop :=
  (∀ (j k : RsuNum) (l : Lit4) (s : State),
    (∃ t, exec (.aw j k) s = .next t ∧ AddsWord s t j (s.rsu j) (s.rsu k) 0) ∧
    (∃ t, exec (.awc j k) s = .next t ∧ AddsWord s t j (s.rsu j) (s.rsu k) (carryOf s)) ∧
    (∃ t, exec (.awl j l) s = .next t ∧ AddsWord s t j (s.rsu j) (BitVec.ofNat 32 l.toNat) 0)) ∧
  (∀ (j k : RsuNum) (l : Lit4) (s : State),
    (∃ t, exec (.sw j k) s = .next t ∧ SubtractsWord s t j (s.rsu j) (s.rsu k) 0) ∧
    (∃ t, exec (.swc j k) s = .next t ∧ SubtractsWord s t j (s.rsu j) (s.rsu k) (1 - carryOf s)) ∧
    (∃ t, exec (.swl j l) s = .next t ∧ SubtractsWord s t j (s.rsu j) (BitVec.ofNat 32 l.toNat) 0))

/-- AWLNI (operation code 9C) adds and SWLNI (9D) subtracts a four-bit literal modulo 2^32 without changing any indicator, and
nothing else changes (44 R540, R541). -/
def Obligations.QuietLiteralSums : Prop := ∀ (j : RsuNum) (k : Lit4) (l : Half) (s : State),
  (decode (0x9C#8 ++ j ++ k) l = .ok (.awlni j k) ∧ ∃ t, exec (.awlni j k) s = .next t ∧
    (t.rsu j).toNat = ((s.rsu j).toNat + k.toNat) % 2 ^ 32 ∧ Frame s t [j] []) ∧
  (decode (0x9D#8 ++ j ++ k) l = .ok (.swlni j k) ∧ ∃ t, exec (.swlni j k) s = .next t ∧
    (t.rsu j).toNat = ((s.rsu j).toNat + 2 ^ 32 - k.toNat) % 2 ^ 32 ∧ Frame s t [j] [])

/-- CWS, CWU, CBS and CBU order their operands, signed and unsigned, in I1 to I3 and change nothing else (44 R524, R536, R537,
R544, R545). -/
def Obligations.WordAndByteOrders : Prop := ∀ (j k : RsuNum) (a b : ByteAddr) (s : State),
  (∃ t, exec (.cws j k) s = .next t ∧ Frame s t [] [1, 2, 3] ∧
    OrderOf t ((s.rsu j).toInt < (s.rsu k).toInt) (s.rsu j = s.rsu k) ((s.rsu k).toInt < (s.rsu j).toInt)) ∧
  (∃ t, exec (.cwu j k) s = .next t ∧ Frame s t [] [1, 2, 3] ∧
    OrderOf t ((s.rsu j).toNat < (s.rsu k).toNat) (s.rsu j = s.rsu k) ((s.rsu k).toNat < (s.rsu j).toNat)) ∧
  (∃ t, exec (.cbs a b) s = .next t ∧ Frame s t [] [1, 2, 3] ∧
    OrderOf t ((s.byteOp a).toInt < (s.byteOp b).toInt) (s.byteOp a = s.byteOp b) ((s.byteOp b).toInt < (s.byteOp a).toInt)) ∧
  (∃ t, exec (.cbu a b) s = .next t ∧ Frame s t [] [1, 2, 3] ∧
    OrderOf t ((s.byteOp a).toNat < (s.byteOp b).toNat) (s.byteOp a = s.byteOp b) ((s.byteOp b).toNat < (s.byteOp a).toNat))

/-- AB and ABC, SB, SBC and SBL: the byte sum or difference, I4 and the sign, and nothing else (44 R546 to R549, R554). -/
def Obligations.ByteSumsAndDifferences : Prop :=
  (∀ (j k : ByteAddr) (s : State),
    (∃ t, exec (.ab j k) s = .next t ∧ AddsByte s t j (s.byteOp j) (s.byteOp k) 0) ∧
    (∃ t, exec (.abc j k) s = .next t ∧ AddsByte s t j (s.byteOp j) (s.byteOp k) (carryOf s))) ∧
  (∀ (j k : ByteAddr) (l : Lit4) (s : State),
    (∃ t, exec (.sb j k) s = .next t ∧ SubtractsByte s t j (s.byteOp j) (s.byteOp k) 0) ∧
    (∃ t, exec (.sbc j k) s = .next t ∧ SubtractsByte s t j (s.byteOp j) (s.byteOp k) (1 - carryOf s)) ∧
    (∃ t, exec (.sbl j l) s = .next t ∧ SubtractsByte s t j (s.byteOp j) (BitVec.ofNat 8 l.toNat) 0))

/-- APDB and APDBC, SPDB and SPDBC: the decimal sum or difference of the bytes modulo 100 when all four digits are decimal, I4 the
carry or 1 for no borrow; the digit and zone checks and the frame for every operand (44 R522, R550 to R553, R560). -/
def Obligations.PackedByteSumsAndDifferences : Prop :=
  (∀ (j k : ByteAddr) (s : State),
    let a := bcdValue (s.byteOp j)
    let b := bcdValue (s.byteOp k)
    (∃ t, exec (.apdb j k) s = .next t ∧ PacksByte s t j k ((a + b : Nat) : Int) (100 ≤ a + b)) ∧
    (∃ t, exec (.apdbc j k) s = .next t ∧ PacksByte s t j k ((a + b + carryOf s : Nat) : Int) (100 ≤ a + b + carryOf s))) ∧
  (∀ (j k : ByteAddr) (s : State),
    let a := bcdValue (s.byteOp j)
    let b := bcdValue (s.byteOp k)
    let c := carryOf s
    (∃ t, exec (.spdb j k) s = .next t ∧ PacksByte s t j k ((a : Int) - b) (b ≤ a)) ∧
    (∃ t, exec (.spdbc j k) s = .next t ∧ PacksByte s t j k ((a : Int) - b - (1 - c : Nat)) (b + (1 - c) ≤ a)))

/-! ### Logic (43) -/

/-- BAW, BOW, BEW and BIW, BAB, BOB, BEB and BIB bit by bit, the sign of the result, and nothing else (43 R484 to R490, R497). -/
def Obligations.WordAndByteLogic : Prop :=
  (∀ (j k : RsuNum) (s : State),
    let a := s.rsu j
    let b := s.rsu k
    let does := fun (i : Instr) (f : Bool → Bool → Bool) => ∃ t, exec i s = .next t ∧
      (∀ n, n < 32 → (t.rsu j).getLsbD n = f (a.getLsbD n) (b.getLsbD n)) ∧ SignOf t (t.rsu j).toInt ∧ Frame s t [j] [1, 2, 3]
    does (.baw j k) (fun x y => x && y) ∧ does (.bow j k) (fun x y => x || y) ∧
      does (.bew j k) (fun x y => x != y) ∧ does (.biw j k) (fun _ y => !y)) ∧
  (∀ (j k : ByteAddr) (s : State),
    let a := s.byteOp j
    let b := s.byteOp k
    let does := fun (i : Instr) (f : Bool → Bool → Bool) => ∃ t, exec i s = .next t ∧
      (∀ n, n < 8 → (t.byteOp j).getLsbD n = f (a.getLsbD n) (b.getLsbD n)) ∧ SignOf t (t.byteOp j).toInt ∧
      KeepsOtherBytes s t j ∧ Frame s t [byteReg j] [1, 2, 3]
    does (.bab j k) (fun x y => x && y) ∧ does (.bob j k) (fun x y => x || y) ∧
      does (.beb j k) (fun x y => x != y) ∧ does (.bib j k) (fun _ y => !y))

/-- BALD, BOLD, BELD, BARD, BORD and BERD: the digit bit by bit, I2 from it, the other digit and the other bytes as before; I1 and
I3 may be anything (43 R491 to R496). -/
def Obligations.DigitLogic : Prop := ∀ (j : ByteAddr) (l : Lit4) (s : State),
  let left := fun (i : Instr) (f : Bool → Bool → Bool) => ∃ t, exec i s = .next t ∧
    (∀ n, n < 4 → (t.byteOp j).getLsbD (n + 4) = f ((s.byteOp j).getLsbD (n + 4)) (l.getLsbD n)) ∧
    (∀ n, n < 4 → (t.byteOp j).getLsbD n = (s.byteOp j).getLsbD n) ∧
    (t.indAt 2 = true ↔ (t.byteOp j).toNat < 16) ∧ KeepsOtherBytes s t j ∧ Frame s t [byteReg j] [1, 2, 3]
  let right := fun (i : Instr) (f : Bool → Bool → Bool) => ∃ t, exec i s = .next t ∧
    (∀ n, n < 4 → (t.byteOp j).getLsbD n = f ((s.byteOp j).getLsbD n) (l.getLsbD n)) ∧
    (∀ n, n < 4 → (t.byteOp j).getLsbD (n + 4) = (s.byteOp j).getLsbD (n + 4)) ∧
    (t.indAt 2 = true ↔ (t.byteOp j).toNat % 16 = 0) ∧ KeepsOtherBytes s t j ∧ Frame s t [byteReg j] [1, 2, 3]
  left (.bald j l) (fun x y => x && y) ∧ left (.bold j l) (fun x y => x || y) ∧ left (.beld j l) (fun x y => x != y) ∧
    right (.bard j l) (fun x y => x && y) ∧ right (.bord j l) (fun x y => x || y) ∧ right (.berd j l) (fun x y => x != y)

/-! ### Transfers and shifts (41), unpacking (47) -/

/-- LB, LLD, LRD, LRH, LRHC and LTRC load their literal and leave the rest alone; LRH and LRHC void the literal word (41 R399 to
R404). -/
def Obligations.LiteralLoadsOfRegisters : Prop :=
  (∀ (lit : Byte) (s : State),
    ∃ t, exec (.lb lit) s = .next t ∧ (t.rsu 0).toNat = lit.toNat * 2 ^ 24 + (s.rsu 0).toNat % 2 ^ 24 ∧ Frame s t [0] []) ∧
  (∀ (j : ByteAddr) (k : RsuNum) (l : Lit4) (h : Half) (lit : Byte) (s : State),
    (∃ t, exec (.lld j l) s = .next t ∧ (t.byteOp j).toNat = 16 * l.toNat + (s.byteOp j).toNat % 16 ∧
      KeepsOtherBytes s t j ∧ Frame s t [byteReg j] []) ∧
    (∃ t, exec (.lrd j l) s = .next t ∧ (t.byteOp j).toNat = (s.byteOp j).toNat / 16 * 16 + l.toNat ∧
      KeepsOtherBytes s t j ∧ Frame s t [byteReg j] []) ∧
    (∃ t, exec (.lrh k h) s = .next t ∧ (t.rsu k).toNat = (s.rsu k).toNat / 2 ^ 16 * 2 ^ 16 + h.toNat ∧ t.pipe.skip = 1#2 ∧
      Frame s { t with pipe := { t.pipe with skip := s.pipe.skip } } [k] []) ∧
    (∃ t, exec (.lrhc k h) s = .next t ∧ (t.rsu k).toNat = h.toNat ∧ t.pipe.skip = 1#2 ∧
      Frame s { t with pipe := { t.pipe with skip := s.pipe.skip } } [k] []) ∧
    (∃ t, exec (.ltrc lit) s = .next t ∧ t.cpc.tally.toNat = lit.toNat ∧
      { t with cpc := { t.cpc with tally := s.cpc.tally } } = s))

/-- The shifts as arithmetic on the source; I4 takes the bit shifted out, SWCL changes no indicator (41 R405 to R410). -/
def Obligations.WordShifts : Prop := ∀ (j k : RsuNum) (s : State),
  let v := s.rsu j
  let c := carryOf s
  (∃ t, exec (.swar j k) s = .next t ∧ (t.rsu k).toInt = v.toInt / 2 ∧ (t.indAt 4 = true ↔ v.toNat % 2 = 1) ∧ Frame s t [k] [4]) ∧
  (∃ t, exec (.swll j k) s = .next t ∧ (t.rsu k).toNat = 2 * v.toNat % 2 ^ 32 ∧ (t.indAt 4 = true ↔ 2 ^ 31 ≤ v.toNat) ∧
    Frame s t [k] [4]) ∧
  (∃ t, exec (.swllc j k) s = .next t ∧ (t.rsu k).toNat = (2 * v.toNat + c) % 2 ^ 32 ∧ (t.indAt 4 = true ↔ 2 ^ 31 ≤ v.toNat) ∧
    Frame s t [k] [4]) ∧
  (∃ t, exec (.swlr j k) s = .next t ∧ (t.rsu k).toNat = v.toNat / 2 ∧ (t.indAt 4 = true ↔ v.toNat % 2 = 1) ∧ Frame s t [k] [4]) ∧
  (∃ t, exec (.swlrc j k) s = .next t ∧ (t.rsu k).toNat = v.toNat / 2 + 2 ^ 31 * c ∧ (t.indAt 4 = true ↔ v.toNat % 2 = 1) ∧
    Frame s t [k] [4]) ∧
  (∃ t, exec (.swcl j k) s = .next t ∧ (t.rsu k).toNat = 2 * v.toNat % 2 ^ 32 + v.toNat / 2 ^ 31 ∧ Frame s t [k] [])

/-- TW and the four halfword moves. TW into MARS6 clears its write tags, but for a register moved to itself, where TW has no effect; by
a parameter (log 23) it clears them there too (the clause of R398 alone), or never (R67). TB, the four digit moves with their checks, and
the two unpacks (10 R67; 41 R398, R411 to R419; 44 R560; 47 R670, R683, R684). -/
def Obligations.WordHalfwordByteAndDigitMoves : Prop :=
  (∀ (j k : RsuNum) (s : State),
    let a := (s.rsu j).toNat
    let b := (s.rsu k).toNat
    let clears := (k = 12 ∨ k = 13) ∧ (s.plat.twTags = .always ∨ s.plat.twTags = .moved ∧ j ≠ k)
    (∃ t, exec (.tw j k) s = .next t ∧ t.rsu k = s.rsu j ∧ (clears → t.cpc.m6wt = 0#4) ∧
      (¬clears → t.cpc.m6wt = s.cpc.m6wt) ∧ Frame s { t with cpc := { t.cpc with m6wt := s.cpc.m6wt } } [k] []) ∧
    (s.plat.twTags ≠ .always → exec (.tw j j) s = .next s) ∧
    (∃ t, exec (.tlhlh j k) s = .next t ∧ (t.rsu k).toNat = a / 2 ^ 16 * 2 ^ 16 + b % 2 ^ 16 ∧ Frame s t [k] []) ∧
    (∃ t, exec (.tlhrh j k) s = .next t ∧ (t.rsu k).toNat = b / 2 ^ 16 * 2 ^ 16 + a / 2 ^ 16 ∧ Frame s t [k] []) ∧
    (∃ t, exec (.trhlh j k) s = .next t ∧ (t.rsu k).toNat = a % 2 ^ 16 * 2 ^ 16 + b % 2 ^ 16 ∧ Frame s t [k] []) ∧
    (∃ t, exec (.trhrh j k) s = .next t ∧ (t.rsu k).toNat = b / 2 ^ 16 * 2 ^ 16 + a % 2 ^ 16 ∧ Frame s t [k] [])) ∧
  (∀ (j k : ByteAddr) (s : State),
    let a := (s.byteOp j).toNat
    let b := (s.byteOp k).toNat
    let zone := fun d : Nat => if d ≤ 9 then 3 else 2
    let moves := fun (i : Instr) (v : Nat) => ∃ t, exec i s = .next t ∧ (t.byteOp k).toNat = v ∧ ChecksBytes s t [s.byteOp j] ∧
      KeepsOtherBytes s t k ∧ Frame s t [byteReg k] [5, 6]
    let sets := fun (i : Instr) (v : Nat) => ∃ t, exec i s = .next t ∧ (t.byteOp k).toNat = v ∧
      KeepsOtherBytes s t k ∧ Frame s t [byteReg k] []
    sets (.tb j k) a ∧ moves (.tldl j k) (a / 16 * 16 + b % 16) ∧ moves (.tldr j k) (b / 16 * 16 + a / 16) ∧
      moves (.trdl j k) (a % 16 * 16 + b % 16) ∧ moves (.trdr j k) (b / 16 * 16 + a % 16) ∧
      sets (.upkl j k) (16 * zone (a / 16) + a / 16) ∧ sets (.upkr j k) (16 * zone (a % 16) + a % 16))

/-! ### What the ATC does by itself (11, 20, 60) -/

/-- The end of every cycle that is not held, with an ATC: a TOD match posts bit 4 of `ITA` and SPINT bit 12, unless masked; the match
is inhibited in the cycle of a write to TOD or ITMR, in the cycle of a write to ITA that clears bit 4, which a match that still holds
sets again at the next X1, and during a fetch operation: while the sequencer is in a fetch state, of any
device, or a fetch of the CPC has a word to come, and not for a stopped one after its cycle (the model's reading, log 39); PRIV in the
first half of the cycle loads `CA2` bit 1 from PRIV in the second half; EACI ends EAC BUSY (that it does so also in the cycle of an
EAF, and that PRIV, SPINT and the mask come after the write of a TOE in the cycle, to `CA2`, `ITA` or `IMR`, is the model's choice, logs
44, 46, 60 and 61); I6 takes the match of a JMPIB or JMPIC of the cycle before, or deferred by a held one, whatever the cycle (log 54); memory,
the other registers of the ATC and the general registers stay. A refresh clears REF REQ and rewrites the word TOD addresses with the
bytes and check bits corrected, or leaves it and signals the error when it cannot be corrected; every other byte stays. That the
address is taken modulo the installed words is a decision of the spec (92 D25); the bits 31, 30, 2 and 1 of `RAR` after it are the
model's choice (log 15). A period of TODOSC counts TOD up by one, every fourth makes a refresh due; which of four is the model's
choice (log 52); nothing else changes, and a cycle begins with its periods counted, on TOD as it was unless a device writes it, and with the match not held
off unless a device writes a register (10 R58; 11 R124, R134, R140; 20 R209, R212; 46
R637; 60 R704, R712). -/
def Obligations.AtcActsByItself : Prop :=
  (∀ (s : State) (e : Option Entry), s.plat.atcPresent = true →
    let t := s.finish e
    let fetching := s.atc.seq = .realFetch ∨ s.atc.seq = .virtualFetch ∨ s.atc.seq = .verFetch ∨
      ∃ w n, s.cpc.fetch = some { data := some w, age := n }
    (∀ n, 1 ≤ n → n ≤ 16 → (bitAt t.atc.ita n = true ↔ bitAt s.atc.ita n = true ∨
      (n = 4 ∧ s.atc.tod = s.atc.itmr ∧ s.atc.todHold = false ∧ ¬fetching ∧ bitAt s.atc.imr 4 = false) ∨
      (n = 12 ∧ s.now.spint = true ∧ bitAt s.atc.imr 12 = false))) ∧
    (∀ n, 1 ≤ n → n ≤ 16 → t.ca2At n = if n = 1 ∧ s.now.privX0 = true then s.now.privX1 else s.ca2At n) ∧
    { t.atc with ita := s.atc.ita, ca2 := s.atc.ca2 } = s.atc ∧
    t.indAt 7 = (s.indAt 7 && !s.now.eaci) ∧ t.indAt 6 = s.pipe.dueMatch.getD (s.indAt 6) ∧ t.pipe.dueMatch = none ∧
    (∀ n, 1 ≤ n → n ≤ 5 → t.indAt n = s.indAt n) ∧
    (∀ r, t.rsu r = s.rsu r) ∧ t.mem = s.mem) ∧
  (∀ s : State, s.plat.atcPresent = true → s.mem.wf = true →
    let pa := s.atc.tod.toNat / 4 % 2 ^ 22 % s.memWords
    let e := s.checked pa
    let t := s.refreshWord
    t.atc.refReq = false ∧ t.cpc = s.cpc ∧ t.pipe = s.pipe ∧ (∀ a, a < 4 * pa ∨ 4 * pa + 4 ≤ a → t.mem.byte a = s.mem.byte a) ∧
      (e.2 = .uncorrectable → t.mem = s.mem ∧ t.atc.memErr = true ∧ t.atc.mdee = true) ∧
      (e.2 ≠ .uncorrectable → t.mem.errAt pa = 0#7 ∧ (∀ b : BitVec 2, t.mem.byte (4 * pa + b.toNat) = byteOf e.1 b) ∧
        (t.atc.memErr = true ↔ s.atc.memErr = true ∨ e.2 = .corrected)) ∧
      t.atc.rar.toNat = 2 ^ 28 + s.atc.tod.toNat / 4 % 2 ^ 22 * 4 ∧ t.atc.am = s.atc.am ∧ KeepsAtcControls s t) ∧
  (∀ (s : State) (n : Nat),
    let t := s.tick n
    t.atc.tod.toNat = (s.atc.tod.toNat + n) % 2 ^ 32 ∧
      (t.atc.refReq = true ↔ s.atc.refReq = true ∨ ∃ k, 1 ≤ k ∧ k ≤ n ∧ (s.atc.tod.toNat + k) % 4 = 0) ∧
      { t with atc := { t.atc with tod := s.atc.tod, refReq := s.atc.refReq } } = s ∧
      ∀ b, s.begin = .ok b →
        (s.plat.atcPresent = true → (∀ m ∈ b.now.messages, ∀ d, m ≠ .eruWrite 44#7 d) →
          b.atc.tod.toNat = (s.atc.tod.toNat + b.now.todTicks) % 2 ^ 32) ∧
        ((∀ m ∈ b.now.messages, ∀ r d, m ≠ .eruWrite r d) → b.atc.todHold = false))

/-! ### Internal and external registers (10, 11, 20, 41) -/

/-- The internal registers. A plain one: TOI writes the bits it has, changing no other plain register, not the Restore FIFO, no general
register, no byte of memory and no indicator but I8, the copy of `CA1.BCT`; TII after it reads them into the halfword the register uses,
keeping the other. TII 16 gives the eight indicators and zeros in the left halfword, TOI 16 writes I1 to I6 only. TII 8 reads the bottom
entry of the Restore FIFO, which goes to the top, TOI 8 pushes its right halfword in at the top; neither is followed by the clock of the
cycle. A register that is not there is refused by name (10 R51, R52, R54, R55, R58; 41 R396, R397). -/
def Obligations.InternalRegisters : Prop :=
  (∀ (n : BitVec 5) (k m : RsuNum) (s : State), isPlainIru n = true →
    ∃ t, exec (.toi n k) s = .next t ∧ (∀ r, t.rsu r = s.rsu r) ∧ t.mem = s.mem ∧ t.atc = s.atc ∧ t.pipe = s.pipe ∧
      (∀ r d, isPlainIru r = true → r ≠ n → t.iruRead r d = s.iruRead r d) ∧ (∀ i, 1 ≤ i → i ≤ 7 → t.indAt i = s.indAt i) ∧
      t.cpc.eari = s.cpc.eari ∧ t.cpc.iari = s.cpc.iari ∧ t.cpc.cri = s.cpc.cri ∧ t.cpc.fifoRun = s.cpc.fifoRun ∧
      ∃ u, exec (.tii n m) t = .next u ∧ iruHalf n (u.rsu m) = iruHalf n (s.rsu k) &&& iruMask n ∧
        otherHalf n (u.rsu m) = otherHalf n (s.rsu m) ∧ Frame t u [m] []) ∧
  (∀ (k : RsuNum) (s : State),
    (∃ t, exec (.tii 16 k) s = .next t ∧ (∀ n, 1 ≤ n → n ≤ 8 → bitAt (leftHalf (t.rsu k)) n = s.indAt n) ∧
      (leftHalf (t.rsu k)).toNat < 256 ∧ rightHalf (t.rsu k) = rightHalf (s.rsu k) ∧ Frame s t [k] []) ∧
    (∃ t, exec (.toi 16 k) s = .next t ∧ (∀ n, 1 ≤ n → n ≤ 6 → t.indAt n = bitAt (leftHalf (s.rsu k)) n) ∧
      Frame s t [] [1, 2, 3, 4, 5, 6])) ∧
  (∀ (k : RsuNum) (s : State),
    (∃ t, exec (.tii 8 k) s = .next t ∧ rightHalf (t.rsu k) = s.cpc.eari ∧ leftHalf (t.rsu k) = leftHalf (s.rsu k) ∧
      KeepsRsu s t [k] ∧ t.cpc.eari = s.cpc.iari ∧ t.cpc.iari = s.cpc.cri ∧ t.cpc.cri = s.cpc.eari ∧
      t.mem = s.mem ∧ t.atc = s.atc ∧ t.cpc.ind = s.cpc.ind ∧ t.fifoClock = t) ∧
    (∃ t, exec (.toi 8 k) s = .next t ∧ (∀ r, t.rsu r = s.rsu r) ∧ t.cpc.eari = s.cpc.iari ∧ t.cpc.iari = s.cpc.cri ∧
      t.cpc.cri = rightHalf (s.rsu k) ∧ t.mem = s.mem ∧ t.atc = s.atc ∧ t.cpc.ind = s.cpc.ind ∧ t.fifoClock = t)) ∧
  (∀ (n : BitVec 5) (k : RsuNum) (s : State), isIru n = false →
    exec (.tii n k) s = .refused (.unusedIru n) ∧ exec (.toi n k) s = .refused (.unusedIru n))

/-- TOE writes the bits a plain ATC register has, TIE after it reads them back. TOE to the Syndrome Register loads its seven bits and
locks it, TIE from it gives them in bits 31 to 25 with the error bit in 17 and unlocks it. RPF, RVA and RRA (TIE 50, 54, 55) give `DDR`,
`VARB` and `RAR`; RVA with a `PSR` that is no page size is refused. The general registers but TIE's, the indicators, memory and the
associative memory stay as they are. A register message of another device does to the machine, or is refused, as the TOE or TIE of the
CPC, except that the CPC stays as it is, that PS, PSM and TVA assert no REQS (the model's reading, log 63) and that `BIN` is guarded as
InterruptArrayAccess says; a message to a port changes at most the breakpoint hardware (11 R122, R131, R133 to R136; 20 R190; 22 R276,
R277; 41 R392, R394). -/
def Obligations.ExternalRegistersReadBack : Prop :=
  (∀ (n : BitVec 5) (k m : RsuNum) (s : State), isPlainEru n = true → s.plat.atcPresent = true →
    ∃ t, exec (.toe n k) s = .next t ∧ (∀ r, t.rsu r = s.rsu r) ∧ t.cpc.ind = s.cpc.ind ∧ t.mem = s.mem ∧ t.atc.am = s.atc.am ∧
      t.pipe = s.pipe ∧
      ∃ u, exec (.tie n m) t = .next u ∧ u.rsu m = s.rsu k &&& eruMask n ∧ KeepsRsu t u [m] ∧ u.cpc.ind = s.cpc.ind ∧
        u.mem = s.mem ∧ u.atc.am = s.atc.am ∧ u.pipe = s.pipe) ∧
  (∀ (k m : RsuNum) (s : State), s.plat.atcPresent = true →
    let reads := fun (n : BitVec 5) (w : Word) (lock : Bool) => ∃ u, exec (.tie n m) s = .next u ∧ u.rsu m = w ∧ KeepsRsu s u [m] ∧
      u.atc.synLock = lock ∧ u.cpc.ind = s.cpc.ind ∧ u.mem = s.mem ∧ u.atc.am = s.atc.am ∧ u.pipe = s.pipe
    (∃ t, exec (.toe 17 k) s = .next t ∧ (∀ n, n < 7 → t.atc.syn.getLsbD n = (s.rsu k).getLsbD (n + 24)) ∧ t.atc.synLock = true ∧
      t.atc.synEr = s.atc.synEr ∧ (∀ r, t.rsu r = s.rsu r) ∧ t.cpc.ind = s.cpc.ind ∧ t.mem = s.mem ∧ t.atc.am = s.atc.am ∧
      t.pipe = s.pipe) ∧
    reads 17 (BitVec.ofNat 32 (s.atc.syn.toNat * 2 ^ 24 + s.atc.synEr.toNat * 2 ^ 16)) false ∧
    reads 18 s.atc.ddr s.atc.synLock ∧ reads 23 s.atc.rar s.atc.synLock ∧
    (s.pageSizeOk = true → reads 22 s.atc.varb s.atc.synLock) ∧
    (s.pageSizeOk = false → exec (.tie 22 m) s = .refused .pageSizeInvalid)) ∧
  (∀ (n : BitVec 5) (k : RsuNum) (s : State), 7 ≤ n.toNat → s.cpc.fetch = none →
    (∀ t, exec (.tie n k) s = .next t → s.deviceMessage (.eruRead (1#2 ++ n)) = .ok { t with cpc := s.cpc }) ∧
    (∀ r, exec (.tie n k) s = .refused r → s.deviceMessage (.eruRead (1#2 ++ n)) = .error r) ∧
    (n ≠ 14#5 →
      (∀ t, exec (.toe n k) s = .next t → s.deviceMessage (.eruWrite (1#2 ++ n) (s.rsu k)) =
        .ok { t with atc := { t.atc with reqsOnce := s.atc.reqsOnce } }) ∧
      (∀ r, exec (.toe n k) s = .refused r → s.deviceMessage (.eruWrite (1#2 ++ n) (s.rsu k)) = .error r))) ∧
  (∀ (p : BitVec 6) (d : Word) (s : State), ∀ m ∈ [BusMessage.eruWrite (1#1 ++ p) d, .eruRead (1#1 ++ p)],
    ∃ t, s.deviceMessage m = .ok t ∧ { t with bkpt := s.bkpt, fresh := s.fresh, atc := s.atc } = s ∧
      t.atc = { s.atc with rrResetting := false } ∧ (s.plat.bkptHw = false ∨ s.plat.mcrPort ≠ p → t.bkpt = s.bkpt))

/-- ITA: TOE writes the bits that exist, TIE reads them, and a `BIN` message that came between the read of `ITA` and its write posts
bit 5 with the write; a bit 4 that it clears stays 0 to the end of its cycle, a match that still holds setting it at the next X1. `BIN`: a TOE loads it while it is empty; a full `BIN` drops it as R130 has it, or takes it on machines that
follow R279, which prints 41 for its number, a parameter (log 21); a TIE reads and empties it; the message of another device, be it called the
Processor Interrupt message or a transfer out to register 46, loads it only while it is empty; a load not masked posts bit 5, or waits
for the write of `ITA` that a read of it announced. A device that reads `ITA` announces one too, one that reads `BIN` empties it (11
R122, R125, R126, R130; 22 R278; 60 R704, R705). -/
def Obligations.InterruptArrayAccess : Prop := ∀ (k m : RsuNum) (s : State), s.plat.atcPresent = true →
  let loaded := fun (t : State) (d : Word) => t.atc.bin = d ∧ t.atc.binFull = true ∧
    (bitAt t.atc.ita 5 = true ↔ bitAt s.atc.ita 5 = true ∨ (bitAt s.atc.imr 5 = false ∧ s.atc.itaRead = false)) ∧
    (t.atc.binPending = true ↔ s.atc.binPending = true ∨ (bitAt s.atc.imr 5 = false ∧ s.atc.itaRead = true)) ∧
    (∀ r, t.rsu r = s.rsu r) ∧ t.cpc.ind = s.cpc.ind ∧ t.mem = s.mem
  (s.atc.binFull = false ∨ s.plat.binGuardsCpc = false → ∃ t, exec (.toe 14 k) s = .next t ∧ loaded t (s.rsu k)) ∧
  (s.atc.binFull = true → s.plat.binGuardsCpc = true → ∃ t, exec (.toe 14 k) s = .next t ∧ t.atc.bin = s.atc.bin ∧
    t.atc.binFull = true ∧ t.atc.binPending = s.atc.binPending ∧ bitAt t.atc.ita 5 = bitAt s.atc.ita 5 ∧
    (∀ r, t.rsu r = s.rsu r) ∧ t.cpc.ind = s.cpc.ind ∧ t.mem = s.mem) ∧
  (∃ t, exec (.tie 14 m) s = .next t ∧ t.rsu m = s.atc.bin ∧ t.atc.binFull = false ∧ t.atc.bin = s.atc.bin ∧ KeepsRsu s t [m] ∧
    t.cpc.ind = s.cpc.ind ∧ t.mem = s.mem) ∧
  (∀ d : Word, ∀ m ∈ [BusMessage.binWrite d, .eruWrite 46#7 d],
    (s.atc.binFull = false → ∃ t, s.deviceMessage m = .ok t ∧ loaded t d) ∧
    (s.atc.binFull = true → s.deviceMessage m = .ok { s with atc := { s.atc with rrResetting := false } })) ∧
  s.deviceMessage (.eruRead 46#7) = .ok { s with atc := { s.atc with binFull := false, rrResetting := false } } ∧
  s.deviceMessage (.eruRead 41#7) = .ok { s with atc := { s.atc with itaRead := true, rrResetting := false } } ∧
  (∃ t, exec (.tie 9 m) s = .next t ∧ (t.rsu m).toNat = s.dropFetch.atc.ita.toNat ∧ t.atc.itaRead = true ∧ KeepsRsu s t [m] ∧
    t.cpc.ind = s.cpc.ind ∧ t.mem = s.mem) ∧
  (∃ t, exec (.toe 9 k) s = .next t ∧
    (∀ n, 1 ≤ n → n ≤ 16 → (bitAt t.atc.ita n = true ↔
      (bitAt (s.rsu k) n = true ∧ 4 ≤ n ∧ n ≠ 15) ∨ (n = 5 ∧ s.atc.binPending = true))) ∧
    (bitAt s.atc.ita 4 = true → bitAt (s.rsu k) 4 = false → ∀ e, bitAt (t.finish e).atc.ita 4 = false) ∧
    t.atc.binPending = false ∧ t.atc.itaRead = false ∧ (∀ r, t.rsu r = s.rsu r) ∧ t.cpc.ind = s.cpc.ind ∧ t.mem = s.mem)

/-- IAM (TOE 48) makes every entry of the associative memory invalid and unreferenced, CAM (TIE 51) only clears the reference bits.
WVP and WSPF (TOE 50 and 51) fill the first unreferenced entry, unless it is the only one left, with the page number and the
descriptor of their words, valid and referenced: the page frame is in bits 24 to 11, the other fields are where the layout parameter
PD_LAYOUT has them, by default as R139 gives them (a decision of the spec, D16). ESPF (TIE 48) puts that entry's descriptor in `RAR`
and `DDR`, where the unused bits of the layout keep those of `RAR` (the model's choice, log 16), and sets its reference bit. PS and
PSM (TOE 52 and 54) purge the entries whose page number matches, PSM outside the bits of `PMR`, and ask for the next cycle of the bus
(11 R139; 21 R245 to R251). -/
def Obligations.AssociativeMemoryCommands : Prop :=
  (∀ (k : RsuNum) (s : State), s.plat.atcPresent = true →
    (∃ t, exec (.toe 16 k) s = .next t ∧ (∀ (i : Nat), i < 16 → t.entry i = { s.entry i with ir := true, rr := false }) ∧
      (∀ r, t.rsu r = s.rsu r) ∧ t.cpc.ind = s.cpc.ind ∧ t.mem = s.mem) ∧
    (∃ t, exec (.tie 19 k) s = .next t ∧ (∀ (i : Nat), i < 16 → t.entry i = { s.entry i with rr := false }) ∧
      KeepsRsu s t [k] ∧ t.cpc.ind = s.cpc.ind ∧ t.mem = s.mem)) ∧
  (∀ (j k : RsuNum) (s : State), s.plat.atcPresent = true → s.pageSizeOk = true →
    s.lru < 16 →
    ∃ t, exec (.toe 18 j) s = .next t ∧ ∃ u, exec (.toe 19 k) t = .next u ∧
      (s.lastReference s.lru = false →
        u.entry s.lru = { s.plat.pdLayout.load (s.rsu k) (s.entry s.lru) with
          vpn := (s.eff (s.rsu j)).extractLsb' 10 22
          rr := true
          ir := false } ∧
        (u.entry s.lru).pfn = (s.rsu k).extractLsb' 10 14 ∧
        (s.plat.pdLayout = PdLayout.default →
          (u.entry s.lru).pcp = (s.rsu k).extractLsb' 28 4 ∧ (u.entry s.lru).pcn = (s.rsu k).extractLsb' 6 4 ∧
            (u.entry s.lru).cp = bitAt (s.rsu k) 1)) ∧
      (∀ i, i < 16 → i ≠ s.lru → s.lastReference s.lru = false → u.entry i = s.entry i) ∧
      (∀ r, u.rsu r = s.rsu r) ∧ u.mem = s.mem) ∧
  (∀ (m : RsuNum) (s : State), s.plat.atcPresent = true →
    (s.atc.rrResetting = true → exec (.tie 16 m) s = .refused .referencedHazard) ∧
    (s.atc.rrResetting = false → ∃ t, exec (.tie 16 m) s = .next t ∧
      t.atc.rar = s.plat.pdLayout.word s.atc.rar (s.entry s.lru) ∧ t.atc.ddr = t.atc.rar ∧
      (s.plat.pdLayout = PdLayout.default →
        t.atc.rar.extractLsb' 10 14 = (s.entry s.lru).pfn ∧ t.atc.rar.extractLsb' 28 4 = (s.entry s.lru).pcp ∧
          t.atc.rar.extractLsb' 6 4 = (s.entry s.lru).pcn ∧ bitAt t.atc.rar 2 = (s.entry s.lru).ir ∧
          bitAt t.atc.rar 1 = (s.entry s.lru).cp) ∧
      t.atc.am = (s.setReferenced s.lru).atc.am ∧ t.atc.rrResetting = s.lastReference s.lru ∧
      KeepsRsu s t [m] ∧ t.cpc.ind = s.cpc.ind ∧ t.mem = s.mem)) ∧
  (∀ (k : RsuNum) (s : State), s.plat.atcPresent = true → s.pageSizeOk = true →
    let purges := fun (n : BitVec 5) (ignore : BitVec 22) => ∃ t, exec (.toe n k) s = .next t ∧
      (∀ i, i < 16 → t.entry i = if s.vpnEq ignore (s.entry i) (s.rsu k) = true then { s.entry i with ir := true, rr := false }
        else s.entry i) ∧
      t.atc.reqsOnce = true ∧ t.atc.varb = s.atc.varb ∧ t.atc.rar = s.atc.rar ∧ t.atc.ddr = s.atc.ddr ∧
      (∀ r, t.rsu r = s.rsu r) ∧ t.cpc.ind = s.cpc.ind ∧ t.mem = s.mem
    purges 20 0#22 ∧ purges 22 s.atc.pmr)

/-- TVA (TOE 55) translates its word without a memory operation: `VARB` takes the address, the next cycle of the bus is asked for. With
one match the reference bit is set and `RAR` and `DDR` take the real address over the two low bits of the word, the protection code; a
page not permitted posts bit 11 of `ITA` unless masked, on machines that follow R252 and not R711, a parameter (log 22). With no match
bit 10 is posted unless masked; of `RAR` only bits 32 to 25 and the displacement within a page of 1K are stated, which a translation
without a match loads as it does with one (93 U11, 90 C13), of `DDR` nothing (R252). With more matches, and after the
sixteenth reference bit, the command is refused (21 R222, R230, R232, R252). -/
def Obligations.TranslateCommand : Prop := ∀ (k : RsuNum) (s : State), s.plat.atcPresent = true → s.pageSizeOk = true →
  let d := s.rsu k
  let posts := fun (t : State) (b : Nat) (c : Prop) => ∀ n, 4 ≤ n → n ≤ 12 →
    (bitAt t.atc.ita n = true ↔ bitAt s.atc.ita n = true ∨ (n = b ∧ c ∧ bitAt s.atc.imr n = false))
  let common := fun (t : State) => t.atc.varb = s.eff d ∧ t.atc.reqsOnce = true ∧
    t.atc.rar.toNat / 2 ^ 24 = s.atc.rar.toNat / 2 ^ 24 ∧ (∀ r, t.rsu r = s.rsu r) ∧ t.cpc.ind = s.cpc.ind ∧ t.mem = s.mem ∧
    t.pipe = s.pipe ∧ KeepsAtcControls s t
  (s.atc.rrResetting = true → exec (.toe 23 k) s = .refused .referencedHazard) ∧
  (s.atc.rrResetting = false →
    (s.hits d = [] → ∃ t, exec (.toe 23 k) s = .next t ∧ common t ∧ posts t 10 True ∧ t.atc.am = s.atc.am ∧
      t.atc.rar.toNat % 2 ^ 10 = d.toNat % 2 ^ 10) ∧
    (∀ i, s.hits d = [i] → ∃ t, exec (.toe 23 k) s = .next t ∧ common t ∧
      posts t 11 (s.plat.tvaPosts = true ∧ s.permitted (s.entry i) (d.extractLsb' 0 2) = false) ∧ t.atc.am = (s.setReferenced i).atc.am ∧
      t.atc.ddr = t.atc.rar ∧ t.atc.rar.toNat / 4 % 2 ^ 22 = (s.realAddress d (s.entry i)).toNat / 4 ∧
      t.atc.rar.toNat % 4 = d.toNat % 4) ∧
    (∀ i i' l, s.hits d = i :: i' :: l → exec (.toe 23 k) s = .refused .multipleHits))

/-- TIE and TOE through the operand pointers and the stack: TOE stores the register in the scratch pad word, TIE asks for the
word, which the next RCV takes; the pointers move as the register number says (20 R192 to R195; 41 R392, R394). -/
def Obligations.ScratchPadThroughPointers : Prop := ∀ (n : BitVec 5) (k : RsuNum) (s : State), n.toNat ≤ 6 →
  (∃ t, exec (.toe n k) s = .next t ∧
    (s.mem.wf = true → StoresAt s t (s.scratchWord (s.entryOf n false)) 0xF#4 (s.rsu k)) ∧
    MovesOperand s t n false ∧ (∀ r, t.rsu r = s.rsu r) ∧ t.cpc.ind = s.cpc.ind ∧ KeepsAtcControls s t ∧ t.pipe = s.pipe) ∧
  (∃ t, exec (.tie n k) s = .next t ∧
    WillDeliver s t (s.scratchWord (s.entryOf n true)) ∧
    MovesOperand s t n true ∧ (∀ r, t.rsu r = s.rsu r) ∧ t.cpc.ind = s.cpc.ind ∧ KeepsMemory s t ∧ KeepsAtcControls s t ∧
    t.pipe = s.pipe)

/-- TIP and TOP. To a port without a device TIP changes only its register, to a value that is not stated, and TOP nothing; either lets
a fetched word that was not received go by. With breakpoint hardware TOP to its port loads the enable bit and can clear the trap bit,
and TIP reads the two bits; the port and the two bit numbers are parameters. A DJOR with J05 = 1 writes J06 as the breakpoint of its
target, whose fetch is not hit; other breakpoints stay (20 R191; 40 R361; 41 R393, R395; 45 R581; 60 R730). -/
def Obligations.PortsAndBreakpointHardware : Prop :=
  (∀ (p : BitVec 6) (k : RsuNum) (s : State),
    s.plat.bkptHw = false ∨ s.plat.mcrPort ≠ p →
    (∃ t, exec (.tip p k) s = .next t ∧ KeepsRsu s t [k] ∧ { t.cpc with rsu := s.cpc.rsu } = { s.cpc with fetch := none } ∧
      t.mem = s.mem ∧ t.pipe = s.pipe ∧ t.bkpt = s.bkpt ∧ KeepsAtcControls s t) ∧
    (∃ t, exec (.top p k) s = .next t ∧ t.cpc = { s.cpc with fetch := none } ∧ t.mem = s.mem ∧ t.pipe = s.pipe ∧
      t.bkpt = s.bkpt ∧ KeepsAtcControls s t)) ∧
  (∀ (k m : RsuNum) (s : State), s.plat.bkptHw = true →
    1 ≤ s.plat.mcrEnableBit → s.plat.mcrEnableBit ≤ 32 → 1 ≤ s.plat.mcrTrapBit → s.plat.mcrTrapBit ≤ 32 →
    s.plat.mcrEnableBit ≠ s.plat.mcrTrapBit →
    ∃ t, exec (.top s.plat.mcrPort k) s = .next t ∧ t.bkpt.enable = bitAt (s.rsu k) s.plat.mcrEnableBit ∧
      t.bkpt.trap = (s.bkpt.trap && bitAt (s.rsu k) s.plat.mcrTrapBit) ∧ t.bkpt.ram = s.bkpt.ram ∧
      ∃ u, exec (.tip s.plat.mcrPort m) t = .next u ∧ bitAt (u.rsu m) s.plat.mcrEnableBit = t.bkpt.enable ∧
        bitAt (u.rsu m) s.plat.mcrTrapBit = t.bkpt.trap ∧ KeepsRsu s u [m] ∧ u.mem = s.mem) ∧
  (∀ (j : Lit4) (k : RsuNum) (s : State), s.plat.bkptHw = true → bitAt j 1 = true → Table.canonical false s.bkpt.ram = true →
    ∃ t, exec (.djor j k) s = .next t ∧ t.bkpt.ram = s.bkpt.ram ∧
      (∀ a, Table.get false a t.advance.bkpt.ram =
        if a = (s.rsu k).toNat % 2 ^ 16 then bitAt j 2 else Table.get false a s.bkpt.ram) ∧
      t.advance.bkptHit = false)

/-! ### Memory (20, 40) -/

/-- SR, and S, SA and SD while address translation is off: the bytes of the odd register of the pair that the tags select go to the
word the even register addresses, every other byte of memory stays; SA and SD move the address register by four. The tags are J, or
`M6WT` for J = 0; `WTR` takes them and a MARS6 store clears `M6WT`; with tags 0000 the store is refused. SL stores the whole register
in scratch pad word 0 to 63. MRR with AT = 0 stores so on machines that follow R180 and not R366, a parameter (log 51). An address
with bits 24 to 10 all ones is a scratch pad address in any installed memory, on machines that follow R187 and not R362 only with bit
32 = 1, a parameter; one with bit 32 alone is none (log 12). The store of another device does the same, and nothing to the CPC; its
bit 32 is the scratch pad mark. A partial store corrects the bytes it leaves, or leaves a word that cannot be corrected; its read loads
the Syndrome Register, which a store then sends as check bits while it is locked; whether that read loads a locked register (R203,
R209) or not (R131) is a parameter, and that an unlocked one ends with the check bits the store generates is the model's reading (log
13) (11 R131; 20 R180, R187, R203, R208, R209; 22 R292; 40 R362, R363, R373 to R377). -/
def Obligations.RealAndScratchPadStores : Prop :=
  (∀ (j : Lit4) (k : RsuNum) (s : State),
    let tags := if j = 0#4 then s.cpc.m6wt else j
    let target := s.realTarget (s.rsu (evenOf k))
    let stores := fun (i : Instr) (d : Word) (ks : List RsuNum) =>
      (tags = 0#4 → exec i s = .refused .noWriteTags) ∧
      (tags ≠ 0#4 → ∃ t, exec i s = .next t ∧
        (s.beyond target = true → KeepsMemory s t) ∧
        (s.mem.wf = true → s.beyond target = false → StoresAt s t (s.physical target) tags (s.rsu (oddOf k))) ∧
        (∀ n, n < 4 * s.physical target ∨ 4 * s.physical target + 4 ≤ n → t.mem.byte n = s.mem.byte n) ∧
        KeepsRsu s t ks ∧ (ks ≠ [] → t.rsu (evenOf k) = s.rsu (evenOf k) + d) ∧
        t.cpc.wtr = tags ∧ t.cpc.m6wt = (if k = 12#4 ∨ k = 13#4 then 0#4 else s.cpc.m6wt) ∧ t.cpc.sr = s.cpc.sr ∧
        t.cpc.ind = s.cpc.ind ∧ KeepsOutsideMemory s t ∧ KeepsAtcControls s t)
    stores (.sr j k) 0 [] ∧
    (s.ca1At 12 = false → stores (.s j k) 0 [] ∧ stores (.sa j k) 4 [evenOf k] ∧ stores (.sd j k) (-4) [evenOf k])) ∧
  (∀ (a : BitVec 6) (k : RsuNum) (s : State),
    ∃ t, exec (.sl a k) s = .next t ∧ (s.mem.wf = true → StoresAt s t (s.scratchWord a.toNat) 0xF#4 (s.rsu k)) ∧ (∀ r, t.rsu r = s.rsu r) ∧
      t.cpc.sr = s.cpc.sr ∧ t.cpc.ind = s.cpc.ind ∧ KeepsOutsideMemory s t ∧ KeepsAtcControls s t) ∧
  (∀ (k : RsuNum) (s : State),
    let tags := s.cpc.sr.extractLsb' 6 4
    let target := s.realTarget (s.rsu k)
    s.ca1At 12 = false → s.plat.mrrIgnoresAt = false → s.cpc.sr.extractLsb' 14 2 = 1#2 → tags ≠ 0#4 →
    ∃ t, exec (.mrr k) s = .next t ∧ (s.beyond target = true → KeepsMemory s t) ∧
      (s.mem.wf = true → s.beyond target = false →
        StoresAt s t (s.physical target) tags (s.rsu (s.cpc.sr.extractLsb' 10 4))) ∧
      (∀ n, n < 4 * s.physical target ∨ 4 * s.physical target + 4 ≤ n → t.mem.byte n = s.mem.byte n) ∧
      t.cpc = { s.cpc with fetch := none } ∧ t.pipe = { s.pipe with skip := 2 } ∧ KeepsAtcControls s t) ∧
  (∀ (a d : Word) (tags : Digit) (s : State), tags ≠ 0#4 →
    let target := messageTarget a
    ∃ t, s.deviceMessage (.realStore a tags d) = .ok t ∧
      (s.beyond target = true → KeepsMemory s t) ∧
      (s.mem.wf = true → s.beyond target = false → StoresAt s t (s.physical target) tags d) ∧
      t.cpc = s.cpc ∧ t.pipe = s.pipe ∧ t.atc.ita = s.atc.ita ∧ KeepsAtcControls s t)

/-- FR and FL, and F, LFA, LFAL and LFD while address translation is off, ask for the word the register addresses (FL for scratch
pad word 0 to 63); LFA and LFAL load the address plus four, LFD minus four; memory and the other registers stay. Which addresses
are scratch pad addresses is a parameter between R187 and R362 (log 12); MRR with AT = 0 fetches so on machines that follow R180 and not
R366, a parameter (log 51). An error in the word is corrected or shows with it. The fetch of another device loads `RAR` with
its address and does nothing to the CPC and memory; its errors are signalled (11 R134; 20 R180, R187, R209; 22 R280, R292; 40 R362, R367
to R372). -/
def Obligations.RealFetches : Prop := ∀ (a : BitVec 6) (j k : RsuNum) (s : State),
  let target := s.realTarget (s.rsu k)
  let fetches := fun (i : Instr) (pa : Nat) (known : Bool) (d : Word) (ks : List RsuNum) => ∃ t, exec i s = .next t ∧
    (known = true → WillDeliver s t pa) ∧ (∃ f, t.cpc.fetch = some { data := some f, age := 0 }) ∧
    KeepsRsu s t ks ∧ (∀ r ∈ ks, t.rsu r = s.rsu k + d) ∧ t.mem = s.mem ∧
    t.cpc.sr = s.cpc.sr ∧ t.cpc.wtr = s.cpc.wtr ∧ t.cpc.m6wt = s.cpc.m6wt ∧ t.cpc.ind = s.cpc.ind ∧
    KeepsOutsideMemory s t ∧ KeepsAtcControls s t
  fetches (.fr k) (s.physical target) (!s.beyond target) 0 [] ∧
  fetches (.fl a) (s.scratchWord a.toNat) true 0 [] ∧
  (s.ca1At 12 = false →
    fetches (.f k) (s.physical target) (!s.beyond target) 0 [] ∧
    fetches (.lfa j k) (s.physical target) (!s.beyond target) 4 [j] ∧
    fetches (.lfal j k) (s.physical target) (!s.beyond target) 4 [j] ∧
    fetches (.lfd j k) (s.physical target) (!s.beyond target) (-4) [j]) ∧
  (s.ca1At 12 = false → s.plat.mrrIgnoresAt = false → s.cpc.sr.extractLsb' 14 2 ≠ 1#2 →
    fetches (.mrr k) (s.physical target) (!s.beyond target) 0 []) ∧
  (∀ w : Word,
    let place := messageTarget w
    ∃ t, s.deviceMessage (.realFetch w) = .ok t ∧ t.mem = s.mem ∧ t.cpc = s.cpc ∧ t.pipe = s.pipe ∧ t.atc.ita = s.atc.ita ∧ KeepsAtcControls s t ∧
      (s.plat.atcPresent = true → t.atc.rar.toNat / 4 % 2 ^ 22 = w.toNat / 4 % 2 ^ 22 ∧ t.atc.rar.toNat / 2 ^ 24 % 16 = 0) ∧
      (s.beyond place = false →
        (t.atc.memErr = true ↔ s.atc.memErr = true ∨ (s.checked (s.physical place)).2 ≠ .ok) ∧
        (t.atc.mdee = true ↔ s.atc.mdee = true ∨ s.Lost (s.physical place))))

/-- RCV takes the fetched word into its destination, J or for K2 = 1 the register number in `SR`, also when a trap or an interrupt
released it before DIE came; with no word outstanding the value is not stated. For K1 = 1 and address translation on, bits 14 to 11 of
`SR` become the odd register of J's pair. An uncorrectable word raises the memory error trap while ECC is enabled (40 R361; 47 R674;
60 R714). -/
def Obligations.FetchedWordReceived : Prop := ∀ (j : RsuNum) (k : Lit4) (s : State),
  let dest := if bitAt k 2 = true then s.cpc.sr.extractLsb' 10 4 else j
  ∃ t, exec (.rcv j k) s = .next t ∧ KeepsRsu s t [dest] ∧
    (∀ f age, s.cpc.fetch = some { data := some f, age := age } → t.rsu dest = f.word ∧
      (f.status = .uncorrectable → s.plat.atcPresent = true → s.ca2At 7 = false →
        bitAt t.atc.ita 14 = true ∧ t.atc.reqs = true ∧ t.atc.memErr = true ∧ t.atc.mdee = true)) ∧
    t.cpc.fetch = none ∧ t.mem = s.mem ∧ t.cpc.ind = s.cpc.ind ∧
    (∀ n, 1 ≤ n → n ≤ 16 → bitAt t.cpc.sr n =
      if bitAt k 1 = true ∧ s.ca1At 12 = true ∧ 11 ≤ n ∧ n ≤ 14 then bitAt (oddOf j) (n - 10) else bitAt s.cpc.sr n) ∧
    t.cpc.wtr = s.cpc.wtr ∧ t.cpc.m6wt = s.cpc.m6wt ∧ KeepsOutsideMemory s t ∧ KeepsAtcControls s t

/-- F, LFA and LFD with the Read code (Execute for an address in register 14) and LFAL with the Linkage code while address translation
is on, and MRR with the code in `SR`: a virtual fetch that no unmasked condition stops asks for the word where its page lies, or with
Virtual Equals Real for the word of its own address. `ITA` takes none of the bits 4 to 12; `VARB`, `AMR`, `RAR`, `DDR`, the reference
bits and the code in `SR` are as the rules say, monitors and masked violations included. That MRR is virtual with AT = 0 too holds on
machines that follow R366 and not R180, a parameter (log 51) (21 R222, R225, R227, R228, R230, R240; 40 R361, R364, R366, R368 to
R371). -/
def Obligations.TranslatedFetches : Prop := ∀ (j k : RsuNum) (s : State),
  let fetches := fun (i : Instr) (pc : BitVec 2) (d : Word) (ks : List RsuNum) =>
    let a := virtualWord (s.rsu k) pc
    let pa := s.landing a
    s.Sends a → ¬s.Stops a pc 0#4 →
    ∃ t, exec i s = .next t ∧ (pa < s.memWords → WillDeliver s t pa) ∧
      (∃ f, t.cpc.fetch = some { data := some f, age := 0 }) ∧ VirtualLeaves s t a pc 0#4 ∧
      KeepsRsu s t ks ∧ (∀ r ∈ ks, t.rsu r = s.rsu k + d) ∧ t.mem = s.mem ∧ t.cpc.ind = s.cpc.ind ∧
      (∀ b, 1 ≤ b → b ≤ 14 → bitAt t.cpc.sr b = bitAt s.cpc.sr b) ∧ t.cpc.sr.extractLsb' 14 2 = pc ∧
      t.cpc.wtr = s.cpc.wtr ∧ t.cpc.m6wt = s.cpc.m6wt ∧ KeepsOutsideMemory s t ∧ KeepsAtcControls s t
  (s.ca1At 12 = true →
    fetches (.f k) (if k = 14#4 then 3#2 else 0#2) 0 [] ∧ fetches (.lfa j k) (if k = 14#4 then 3#2 else 0#2) 4 [j] ∧
    fetches (.lfal j k) 2#2 4 [j] ∧ fetches (.lfd j k) (if k = 14#4 then 3#2 else 0#2) (-4) [j]) ∧
  (s.ca1At 12 = true ∨ s.plat.mrrIgnoresAt = true → s.cpc.sr.extractLsb' 14 2 ≠ 1#2 →
    fetches (.mrr k) (s.cpc.sr.extractLsb' 14 2) 0 [])

/-- S, SA and SD while address translation is on: a virtual store that no unmasked condition stops puts the tagged bytes where its
page lies, or with Virtual Equals Real at its own address, with the check bits of the word or those of the locked Syndrome Register,
which the read of a partial store loads first (R203, R209) or not (R131), a parameter (log 13); the page is referenced and marked
changed, also where its Access Violation is masked (the model's choice, log 64); `SR` takes the code 01, the odd register and the tags
for a retry. MRR repeats such a store from `SR` and voids the next two words, with AT = 0 too on machines that follow R366 and not R180,
a parameter (log 51) (11 R131; 20 R203, R208, R209; 21 R222, R227, R228, R230, R231, R240; 40 R363, R364, R366, R374 to R376). -/
def Obligations.TranslatedStores : Prop := ∀ (j : Lit4) (k : RsuNum) (s : State),
  let stored := fun (t : State) (a : Word) (tags : Digit) (d : Word) =>
    let pa := s.landing a
    (s.mem.wf = true → pa < s.memWords → StoresAt s t pa tags d) ∧
      (∀ m, m < 4 * pa ∨ 4 * pa + 4 ≤ m → t.mem.byte m = s.mem.byte m) ∧ VirtualLeaves s t a 1#2 tags ∧ KeepsAtcControls s t
  let stores := fun (i : Instr) (d : Word) (ks : List RsuNum) =>
    let tags := if j = 0#4 then s.cpc.m6wt else j
    let a := virtualWord (s.rsu (evenOf k)) 1#2
    tags ≠ 0#4 → s.Sends a → ¬s.Stops a 1#2 tags →
    ∃ t, exec i s = .next t ∧ stored t a tags (s.rsu (oddOf k)) ∧
      KeepsRsu s t ks ∧ (ks ≠ [] → t.rsu (evenOf k) = s.rsu (evenOf k) + d) ∧
      t.cpc.sr = 1#2 ++ oddOf k ++ tags ++ s.cpc.sr.extractLsb' 0 6 ∧ t.cpc.wtr = tags ∧
      t.cpc.m6wt = (if k = 12#4 ∨ k = 13#4 then 0#4 else s.cpc.m6wt) ∧ t.cpc.ind = s.cpc.ind ∧ KeepsOutsideMemory s t
  (s.ca1At 12 = true → stores (.s j k) 0 [] ∧ stores (.sa j k) 4 [evenOf k] ∧ stores (.sd j k) (-4) [evenOf k]) ∧
  (let tags := s.cpc.sr.extractLsb' 6 4
   let a := virtualWord (s.rsu k) 1#2
   s.ca1At 12 = true ∨ s.plat.mrrIgnoresAt = true → s.cpc.sr.extractLsb' 14 2 = 1#2 → tags ≠ 0#4 → s.Sends a → ¬s.Stops a 1#2 tags →
    ∃ t, exec (.mrr k) s = .next t ∧ stored t a tags (s.rsu (s.cpc.sr.extractLsb' 10 4)) ∧
      t.cpc = { s.cpc with fetch := none } ∧ t.pipe = { s.pipe with skip := 2 })

/-- A virtual operation that a condition stops, the condition not being masked: no page, a page that does not permit the code, the first
write to a page, or a monitor (the virtual breakpoint, the monitored store, the store trace, the F4X match). A stopped fetch will deliver
nothing, a stopped store changes no byte of memory; the bit of every unmasked condition that arises is posted, 6 to 8 beside 9 to 11,
`VARB` holds the address, a page found is referenced, and changed if it let a store through, by a masked violation too (the model's
choice, log 64); the address register of LFA to LFD, SA and SD moves all the same. For MRR with AT = 0 this holds on machines that
follow R366 and not R180, a parameter (log 51) (21 R222, R225 to R232, R240; 40 R361 to R363, R366; 60 R702). -/
def Obligations.AbortedVirtualOperations : Prop :=
  (∀ (j k : RsuNum) (s : State),
    let fetches := fun (i : Instr) (pc : BitVec 2) (d : Word) (ks : List RsuNum) =>
      let a := virtualWord (s.rsu k) pc
      s.Sends a → s.Stops a pc 0#4 →
      ∃ t, exec i s = .next t ∧ t.cpc.fetch = some { data := none, age := 0 } ∧ VirtualLeaves s t a pc 0#4 ∧ t.mem = s.mem ∧
        KeepsRsu s t ks ∧ (∀ r ∈ ks, t.rsu r = s.rsu k + d) ∧ t.cpc.ind = s.cpc.ind ∧ t.cpc.sr.extractLsb' 14 2 = pc ∧
        t.pipe = s.pipe ∧ KeepsAtcControls s t
    (s.ca1At 12 = true →
      fetches (.f k) (if k = 14#4 then 3#2 else 0#2) 0 [] ∧ fetches (.lfa j k) (if k = 14#4 then 3#2 else 0#2) 4 [j] ∧
      fetches (.lfal j k) 2#2 4 [j] ∧ fetches (.lfd j k) (if k = 14#4 then 3#2 else 0#2) (-4) [j]) ∧
    (s.ca1At 12 = true ∨ s.plat.mrrIgnoresAt = true → s.cpc.sr.extractLsb' 14 2 ≠ 1#2 →
      fetches (.mrr k) (s.cpc.sr.extractLsb' 14 2) 0 [])) ∧
  (∀ (j : Lit4) (k : RsuNum) (s : State),
    let stores := fun (i : Instr) (r : RsuNum) (tags : Digit) (d : Word) (ks : List RsuNum) =>
      let a := virtualWord (s.rsu r) 1#2
      tags ≠ 0#4 → s.Sends a → s.Stops a 1#2 tags →
      ∃ t, exec i s = .next t ∧ t.mem = s.mem ∧ VirtualLeaves s t a 1#2 tags ∧ t.cpc.fetch = none ∧ KeepsRsu s t ks ∧
        (∀ q ∈ ks, t.rsu q = s.rsu r + d) ∧ t.cpc.ind = s.cpc.ind ∧ KeepsAtcControls s t
    let tags := if j = 0#4 then s.cpc.m6wt else j
    (s.ca1At 12 = true → stores (.s j k) (evenOf k) tags 0 [] ∧ stores (.sa j k) (evenOf k) tags 4 [evenOf k] ∧
      stores (.sd j k) (evenOf k) tags (-4) [evenOf k]) ∧
    (s.ca1At 12 = true ∨ s.plat.mrrIgnoresAt = true → s.cpc.sr.extractLsb' 14 2 = 1#2 →
      stores (.mrr k) k (s.cpc.sr.extractLsb' 6 4) 0 []))

/-! ### Fields (42, 43, 44) -/

/-- TFB, TFBD, TFBDN, TFBI and TFBIN from MARS4, MARS5 or MARS7: the byte at the pointer goes to BJ and is checked; D moves the
pointer left, I right, setting the overflow flag at the edge of the word; without N the tally counts down, and a tally of 0 voids
the instruction (42 R441 to R446, R450 to R454). -/
def Obligations.FieldBytesToRegister : Prop := ∀ (j : ByteAddr) (k : RsuNum) (s : State), k = 9#4 ∨ k = 11#4 ∨ k = 15#4 →
  let b := byteOf (s.rsu k) (s.pointer (evenOf k))
  let loads := fun (t : State) => t.byteOp j = b ∧ KeepsOtherBytes s t j ∧ ChecksBytes s t [b] ∧ KeepsInd s t [5, 6] ∧
    t.cpc.m6wt = s.cpc.m6wt ∧ KeepsOutsideFields s t
  let steps := fun (t : State) (dec : Bool) => loads t ∧ StepsFlags s t [k] dec ∧ MovesPointers s t [k] [byteReg j] dec
  (∃ t, exec (.tfb j k) s = .next t ∧ loads t ∧ KeepsRsu s t [byteReg j] ∧ t.cpc.sr = s.cpc.sr ∧ t.cpc.tally = s.cpc.tally) ∧
  (∃ t, exec (.tfbdn j k) s = .next t ∧ steps t true ∧ t.cpc.tally = s.cpc.tally) ∧
  (∃ t, exec (.tfbin j k) s = .next t ∧ steps t false ∧ t.cpc.tally = s.cpc.tally) ∧
  (s.cpc.tally = 0#16 → exec (.tfbd j k) s = .next s ∧ exec (.tfbi j k) s = .next s) ∧
  (s.cpc.tally ≠ 0#16 →
    (∃ t, exec (.tfbd j k) s = .next t ∧ steps t true ∧ t.cpc.tally = s.cpc.tally - 1) ∧
    (∃ t, exec (.tfbi j k) s = .next t ∧ steps t false ∧ t.cpc.tally = s.cpc.tally - 1))

/-- TBF, TBFD, TBFDN, TBFI and TBFIN: BJ, checked, goes to the byte of MARS6 at its pointer with the write tag of that byte; the
pointer, the flag and the tally move as the letters say (42 R441 to R446, R455 to R459). -/
def Obligations.RegisterBytesToField : Prop := ∀ (j : ByteAddr) (s : State),
  let puts := fun (t : State) => PutsField s t (s.byteOp j) ∧ ChecksBytes s t [s.byteOp j] ∧ KeepsInd s t [5, 6] ∧
    KeepsOutsideFields s t
  let steps := fun (t : State) (dec : Bool) => puts t ∧ StepsFlags s t [13] dec ∧ MovesPointers s t [13] [13] dec
  (∃ t, exec (.tbf j) s = .next t ∧ puts t ∧ KeepsRsu s t [13] ∧ t.cpc.sr = s.cpc.sr ∧ t.cpc.tally = s.cpc.tally) ∧
  (∃ t, exec (.tbfdn j) s = .next t ∧ steps t true ∧ t.cpc.tally = s.cpc.tally) ∧
  (∃ t, exec (.tbfin j) s = .next t ∧ steps t false ∧ t.cpc.tally = s.cpc.tally) ∧
  (s.cpc.tally = 0#16 → exec (.tbfd j) s = .next s ∧ exec (.tbfi j) s = .next s) ∧
  (s.cpc.tally ≠ 0#16 →
    (∃ t, exec (.tbfd j) s = .next t ∧ steps t true ∧ t.cpc.tally = s.cpc.tally - 1) ∧
    (∃ t, exec (.tbfi j) s = .next t ∧ steps t false ∧ t.cpc.tally = s.cpc.tally - 1))

/-- TFFD and TFFI, byte by byte: the MARS4 byte, checked, goes to MARS6, both pointers move, the tally counts down; the
instruction ends when a pointer crosses the edge of its word, when the tally is used up, or when the step has no cycle left
(42 R441, R443, R460, R461). -/
def Obligations.FieldToFieldTransfers : Prop :=
  let one := fun (dec : Bool) (s t : State) => PutsField s t (byteOf (s.rsu 9) (s.pointer 8)) ∧
    MovesPointers s t [9, 13] [13] dec ∧ StepsFlags s t [9, 13] dec ∧ t.cpc.tally = s.cpc.tally - 1 ∧
    ChecksBytes s t [byteOf (s.rsu 9) (s.pointer 8)] ∧ KeepsInd s t [5, 6] ∧ KeepsOutsideFields s t
  let ends := fun (dec : Bool) (s : State) => AtEdge s 9 dec ∨ AtEdge s 13 dec
  RunsBytes .tffd (one true) (ends true) ∧ RunsBytes .tffi (one false) (ends false)

/-- The eight halfword transfers, with two bytes or more to go and an even pointer. From a field: the halfword at the pointer goes to
the half of RSU[j] that the mnemonic names, and if that is MARS6 sets two write tags; to a field: that half goes to MARS6 with two write
tags. The pointer moves by two, which sets the overflow flag from the last halfword of the word, and the tally counts down by two; to a
field, bytes left over at the tally's end set M6OF. Where RSU[j] is the unit's own address register the pointer ends two further than it
was (the model's choice, log 41). A tally of 0 voids the instruction, a tally of 1 and an odd pointer are refused (10 R67; 42 R442 to R444,
R462 to R471). -/
def Obligations.HalfwordTransfers : Prop := ∀ (j k : RsuNum) (s : State), k = 9#4 ∨ k = 11#4 ∨ k = 15#4 →
  let half := if s.pointer (evenOf k) = 0#2 then leftHalf (s.rsu k) else rightHalf (s.rsu k)
  let runs := fun (i : Instr) (u : RsuNum) (dec : Bool) (does : State → Prop) =>
    (s.cpc.tally = 0#16 → exec i s = .next s) ∧ (s.cpc.tally = 1#16 → exec i s = .refused .halfwordTallyOne) ∧
    (2 ≤ s.cpc.tally.toNat → (s.pointer (evenOf u)).toNat % 2 = 1 → exec i s = .refused .oddFieldPointer) ∧
    (2 ≤ s.cpc.tally.toNat → (s.pointer (evenOf u)).toNat % 2 = 0 → ∃ t, exec i s = .next t ∧
      t.cpc.tally.toNat + 2 = s.cpc.tally.toNat ∧ t.cpc.ind = s.cpc.ind ∧ KeepsOutsideFields s t ∧ bitAt t.cpc.sr 1 = dec ∧
      (∀ n, 2 ≤ n → n ≤ 16 → n ≠ u.toNat / 2 - 2 → bitAt t.cpc.sr n = bitAt s.cpc.sr n) ∧ does t)
  let loads := fun (i : Instr) (left dec : Bool) => runs i k dec fun t =>
    let w := if left then withLeft (s.rsu j) half else withRight (s.rsu j) half
    t.cpc.m6wt = (if j = 13#4 then s.cpc.m6wt ||| (if left then 0b1100#4 else 0b0011#4) else s.cpc.m6wt) ∧
    (∀ r, t.rsu r =
      if r = evenOf k then pointedAt (if evenOf k = j then w else s.rsu (evenOf k)) (s.pointer (evenOf k) + 2)
      else if r = j then w else s.rsu r) ∧
    (bitAt t.cpc.sr (k.toNat / 2 - 2) = true ↔
      bitAt s.cpc.sr (k.toNat / 2 - 2) = true ∨ s.pointer (evenOf k) = if dec then 0#2 else 2#2)
  let stores := fun (i : Instr) (h : Half) (dec : Bool) => runs i 13#4 dec fun t =>
    (bitAt t.cpc.sr 4 = true ↔
      bitAt s.cpc.sr 4 = true ∨ (s.pointer 12 = if dec then 0#2 else 2#2) ∨ (t.cpc.tally = 0#16 ∧ t.cpc.m6wt ≠ 0#4)) ∧
    KeepsRsu s t [12, 13] ∧ t.rsu 12 = movedBy (s.rsu 12) 2#2 ∧
    (s.pointer 12 = 0#2 → t.rsu 13 = withLeft (s.rsu 13) h ∧ t.cpc.m6wt = s.cpc.m6wt ||| 0b1100#4) ∧
    (s.pointer 12 = 2#2 → t.rsu 13 = withRight (s.rsu 13) h ∧ t.cpc.m6wt = s.cpc.m6wt ||| 0b0011#4)
  loads (.tflhd j k) true true ∧ loads (.tflhi j k) true false ∧ loads (.tfrhd j k) false true ∧ loads (.tfrhi j k) false false ∧
    stores (.tlhfd j) (leftHalf (s.rsu j)) true ∧ stores (.tlhfi j) (leftHalf (s.rsu j)) false ∧
    stores (.trhfd j) (rightHalf (s.rsu j)) true ∧ stores (.trhfi j) (rightHalf (s.rsu j)) false

/-- BAF, BOF and BEF, byte by byte from the right: the bytes of MARS4 and MARS5, combined bit by bit, go to MARS6; no indicator
changes (42 R441, R443; 43 R480 to R483). -/
def Obligations.FieldLogic : Prop :=
  let runs := fun (i : Instr) (f : Bool → Bool → Bool) => RunsBytes i (fun s t => ∃ b : Byte,
    (∀ n, n < 8 → b.getLsbD n = f ((byteOf (s.rsu 9) (s.pointer 8)).getLsbD n) ((byteOf (s.rsu 11) (s.pointer 10)).getLsbD n)) ∧
    ThreeFieldStep s t b []) ThreeAtEdge
  runs .baf (fun x y => x && y) ∧ runs .bof (fun x y => x || y) ∧ runs .bef (fun x y => x != y)

/-- AF and SF, byte by byte from the right: the sum, or the difference, of the bytes of MARS4 and MARS5 with the carry in I4 goes
to MARS6, and I4 takes the carry (1 for no borrow) (42 R441, R443; 44 R521, R525, R526). -/
def Obligations.FieldSums : Prop :=
  RunsBytes .af (fun s t =>
    let a := byteOf (s.rsu 9) (s.pointer 8)
    let b := byteOf (s.rsu 11) (s.pointer 10)
    ∃ r : Byte, r.toNat = (a.toNat + b.toNat + carryOf s) % 256 ∧
      (t.indAt 4 = true ↔ 256 ≤ a.toNat + b.toNat + carryOf s) ∧ ThreeFieldStep s t r [4]) ThreeAtEdge ∧
  RunsBytes .sf (fun s t =>
    let a := byteOf (s.rsu 9) (s.pointer 8)
    let b := byteOf (s.rsu 11) (s.pointer 10)
    ∃ r : Byte, (r.toNat : Int) = ((a.toNat : Int) - b.toNat - (1 - carryOf s : Nat)) % 256 ∧
      (t.indAt 4 = true ↔ b.toNat + (1 - carryOf s) ≤ a.toNat) ∧ ThreeFieldStep s t r [4]) ThreeAtEdge

/-- The four bytes of the word of MARS4 plus those of MARS5 plus the carry, when the three fields end with their words: one AF
leaves the word sum in MARS6's data register, its carry out in I4, all four write tags and the three overflow flags set, the
pointers where they were and the tally four less (42 R441; 44 R525). -/
def Obligations.WholeWordFieldSum : Prop := ∀ s : State, s.pointer 8 = 3#2 → s.pointer 10 = 3#2 → s.pointer 12 = 3#2 →
  4 ≤ s.cpc.tally.toNat → 4 ≤ s.pipe.fieldCycles →
  ∃ t, exec .af s = .next t ∧ (t.rsu 13).toNat = ((s.rsu 9).toNat + (s.rsu 11).toNat + carryOf s) % 2 ^ 32 ∧
    (t.indAt 4 = true ↔ 2 ^ 32 ≤ (s.rsu 9).toNat + (s.rsu 11).toNat + carryOf s) ∧ t.cpc.m6wt = 0xF#4 ∧
    t.cpc.tally.toNat = s.cpc.tally.toNat - 4 ∧ t.cpc.sr = s.cpc.sr ||| 0b01111#16 ∧ KeepsRsu s t [13] ∧ KeepsInd s t [4] ∧ KeepsOutsideFields s t

/-- APDF and SPDF, AUDF and SUDF, byte by byte: two decimal digits, or the right digits under zone 3, added or subtracted with the
carry in I4, when the digits are decimal; the checks of both bytes set I5 and I6 (44 R522, R523, R528 to R531, R560). -/
def Obligations.DecimalFieldSums : Prop :=
  (
    let runs := fun (i : Instr) (sum : Nat → Nat → Nat → Int) (carry : Nat → Nat → Nat → Prop) => RunsBytes i (fun s t =>
      let a := byteOf (s.rsu 9) (s.pointer 8)
      let b := byteOf (s.rsu 11) (s.pointer 10)
      ∃ r : Byte, (isPacked a = true → isPacked b = true → isPacked r = true ∧
          (bcdValue r : Int) = sum (bcdValue a) (bcdValue b) (carryOf s) % 100 ∧
          (t.indAt 4 = true ↔ carry (bcdValue a) (bcdValue b) (carryOf s))) ∧
        ChecksBytes s t [a, b] ∧ ThreeFieldStep s t r [4, 5, 6]) ThreeAtEdge
    runs .apdf (fun a b c => ((a + b + c : Nat) : Int)) (fun a b c => 100 ≤ a + b + c) ∧
      runs .spdf (fun a b c => (a : Int) - b - (1 - c : Nat)) (fun a b c => b + (1 - c) ≤ a)) ∧
  (
    let runs := fun (i : Instr) (sum : Nat → Nat → Nat → Int) (carry : Nat → Nat → Nat → Prop) => RunsBytes i (fun s t =>
      let a := byteOf (s.rsu 9) (s.pointer 8)
      let b := byteOf (s.rsu 11) (s.pointer 10)
      let x := a.toNat % 16
      let y := b.toNat % 16
      ∃ d : Digit, (x ≤ 9 → y ≤ 9 → (d.toNat : Int) = sum x y (carryOf s) % 10 ∧ (t.indAt 4 = true ↔ carry x y (carryOf s))) ∧
        (t.indAt 5 = true ↔ s.indAt 5 = true ∨ 9 < x ∨ 9 < y) ∧
        (t.indAt 6 = true ↔ s.indAt 6 = true ∨ a.toNat / 16 ≠ 3 ∨ b.toNat / 16 ≠ 3) ∧
        ThreeFieldStep s t (3#4 ++ d) [4, 5, 6]) ThreeAtEdge
    runs .audf (fun a b c => ((a + b + c : Nat) : Int)) (fun a b c => 10 ≤ a + b + c) ∧
      runs .sudf (fun a b c => (a : Int) - b - (1 - c : Nat)) (fun a b c => b + (1 - c) ≤ a))

/-- CFU and CBFU, byte by byte going right: I1 to I3 order the bytes of MARS4 and MARS5, both are checked; the comparison ends at
the first difference, after which a crossing sets no overflow flag; CBFU leaves the MARS4 pointer (44 R524, R527, R538, R560). -/
def Obligations.FieldOrders : Prop :=
  let runs := fun (i : Instr) (units : List RsuNum) => RunsBytes i (fun s t =>
    let a := byteOf (s.rsu 9) (s.pointer 8)
    let b := byteOf (s.rsu 11) (s.pointer 10)
    OrderOf t (a.toNat < b.toNat) (a = b) (b.toNat < a.toNat) ∧ ChecksBytes s t [a, b] ∧ KeepsInd s t [1, 2, 3, 5, 6] ∧
      MovesPointers s t units [] false ∧ (a = b → StepsFlags s t units false) ∧ (a ≠ b → StepsFlags s t [] false) ∧
      t.cpc.tally = s.cpc.tally - 1 ∧ t.cpc.m6wt = s.cpc.m6wt ∧ KeepsOutsideFields s t)
    (fun s => byteOf (s.rsu 9) (s.pointer 8) ≠ byteOf (s.rsu 11) (s.pointer 10) ∨ ∃ k ∈ units, AtEdge s k false)
  runs .cfu [9, 11] ∧ runs .cbfu [11]

/-! ### Jumps and skips (45) -/

/-- The unconditional jumps: JOR and DJOR to the right half of a register, JRP, JRM, DJRP and DJRM relative to the instruction, JPMBN
and DJPMBN to the complement of the low halfword on the bus, which is that of the CPC's fetched word when DIE has come for it and is not
stated otherwise (log 40); the plain ones void the two words behind them, the D ones let them execute; nothing else changes (DJOR with
J05 = 1 on a machine with breakpoint hardware also presents a breakpoint) (45 R571, R580 to R583, R595 to R598). -/
def Obligations.UnconditionalJumps : Prop :=
  (∀ (j : Lit4) (k : RsuNum) (d : Byte) (s : State),
    let a : Half := BitVec.ofNat 16 (s.rsu k).toNat
    (∃ t, exec (.jor j k) s = .next t ∧ JumpsNow t a ∧ KeepsButFlow s t) ∧
    (∃ t, exec (.djor j k) s = .next t ∧ JumpsLater s t a ∧ KeepsButFlow s { t with bkpt := s.bkpt } ∧
      (s.plat.bkptHw = false ∨ bitAt j 1 = false → t.bkpt = s.bkpt)) ∧
    JumpsNowIf (.jrp d) s True (AddressAhead s d.toNat) ∧ JumpsNowIf (.jrm d) s True (AddressBehind s d.toNat) ∧
    JumpsLaterIf (.djrp d) s True (AddressAhead s d.toNat) ∧ JumpsLaterIf (.djrm d) s True (AddressBehind s d.toNat)) ∧
  (∀ s : State,
    (∃ t a, exec .jpmbn s = .next t ∧ JumpsNow t a ∧ KeepsButFlow s { t with fresh := s.fresh }) ∧
    (∃ t a, exec .djpmbn s = .next t ∧ JumpsLater s t a ∧ KeepsButFlow s { t with fresh := s.fresh }) ∧
    (∀ f n, s.cpc.fetch = some { data := some f, age := n } → s.now.dieLate = false →
      ∃ a : Half, a.toNat + f.word.toNat % 2 ^ 16 = 65535 ∧ JumpsNowIf .jpmbn s True a ∧ JumpsLaterIf .djpmbn s True a))

/-- JIBO, JIBZ, JIBOM, JIBZM and their D forms jump K words ahead or back if the selected indicators say 1 or 0; that JIBO, JIBZ, DJIBO
and DJIBZ go to the address in RSU[K] instead, as the table of R328 has it against their pages, is a parameter (log 20). JIBOL and JIBZL
jump to their literal or void it; RIBO, DRIBO, RIBZ and DRIBZ go to a jump register; else they do nothing (30 R328; 45 R571, R572, R585
to R590, R593, R594, R604 to R609). -/
def Obligations.IndicatorJumpsAndReturns : Prop :=
  (∀ (sel : Sel) (k : Lit4) (l : Half) (s : State),
    let ones := PairSays s.indicators sel true
    let zeros := PairSays s.indicators sel false
    let there : Half := if s.plat.pairJumpsByRsu = true then BitVec.ofNat 16 (s.rsu k).toNat else AddressAhead s k.toNat
    JumpsNowIf (.jibo sel k) s ones there ∧ JumpsNowIf (.jibz sel k) s zeros there ∧
    JumpsNowIf (.jibom sel k) s ones (AddressBehind s k.toNat) ∧ JumpsNowIf (.jibzm sel k) s zeros (AddressBehind s k.toNat) ∧
    JumpsLaterIf (.djibo sel k) s ones there ∧ JumpsLaterIf (.djibz sel k) s zeros there ∧
    JumpsLaterIf (.djibom sel k) s ones (AddressBehind s k.toNat) ∧
    JumpsLaterIf (.djibzm sel k) s zeros (AddressBehind s k.toNat) ∧
    JumpsLongIf (.jibol sel l) s ones l ∧ JumpsLongIf (.jibzl sel l) s zeros l) ∧
  (∀ (r : JrNum) (sel : Sel) (s : State),
    JumpsNowIf (.ribo r sel) s (PairSays s.indicators sel true) (s.jr r) ∧
    JumpsLaterIf (.dribo r sel) s (PairSays s.indicators sel true) (s.jr r) ∧
    JumpsNowIf (.ribz r sel) s (PairSays s.indicators sel false) (s.jr r) ∧
    JumpsLaterIf (.dribz r sel) s (PairSays s.indicators sel false) (s.jr r))

/-- JIOL and JIZL jump to their literal if an indicator selected by the eight-bit mask is 1, or 0, and leave the address being
fetched in the jump register; else they only void the literal. JRO and JRZ jump if the bits of a byte that the mask selects are
all 1, or all 0 (45 R571, R599, R600, R617, R618). -/
def Obligations.MaskedLongJumps : Prop := ∀ (hi m : Lit4) (r : JrNum) (b : ByteAddr) (l : Half) (s : State),
  let mask : Byte := hi ++ m
  let links := fun (i : Instr) (v : Bool) =>
    ((∃ n, 1 ≤ n ∧ n ≤ 8 ∧ bitAt mask n = true ∧ s.indAt n = v) →
      ∃ t, exec i s = .next t ∧ JumpsNow t l ∧ t.jr r = s.pipe.cr ∧ (∀ q, q ≠ r → t.jr q = s.jr q) ∧
        KeepsButFlow s { t with cpc := { t.cpc with jr := s.cpc.jr } }) ∧
    ((∀ n, 1 ≤ n → n ≤ 8 → bitAt mask n = true → s.indAt n ≠ v) →
      ∃ t, exec i s = .next t ∧ t.pipe.crNext = s.pipe.crNext ∧ t.pipe.skip = 1#2 ∧ KeepsButFlow s t)
  links (.jiol hi r m l) true ∧ links (.jizl hi r m l) false ∧
    JumpsLongIf (.jro hi m b l) s (∀ n, 1 ≤ n → n ≤ 8 → bitAt mask n = true → bitAt (s.byteOp b) n = true) l ∧
    JumpsLongIf (.jrz hi m b l) s (∀ n, 1 ≤ n → n ≤ 8 → bitAt mask n = true → bitAt (s.byteOp b) n = false) l

/-- The skips void the next word if their condition holds and else do nothing: SIBO and SIBZ on indicators, SRBO and SRBZ on a
byte, SRB3O on byte 3 of a register, SRU and SRE on two bytes (45 R584, R610, R611, R613 to R616). -/
def Obligations.Skips : Prop := ∀ (sel : Sel) (r : RsuNum) (j k : ByteAddr) (s : State),
  SkipsIf (.sibo sel) s (PairSays s.indicators sel true) ∧ SkipsIf (.sibz sel) s (PairSays s.indicators sel false) ∧
  SkipsIf (.srbo sel k) s (PairSays (s.byteOp k) sel true) ∧ SkipsIf (.srbz sel k) s (PairSays (s.byteOp k) sel false) ∧
  SkipsIf (.srb3o sel r) s (PairSays (BitVec.ofNat 8 (s.rsu r).toNat) sel true) ∧
  SkipsIf (.sru j k) s (s.byteOp j ≠ s.byteOp k) ∧ SkipsIf (.sre j k) s (s.byteOp j = s.byteOp k)

/-- JTNZ and DJTNZ count a tally that is not 0 down and jump back. JFA and JFAL jump when an overflow flag is set and the tally is not
0: the upper half of the address is that of JR7, then come DFP, M7OF, M6OF, M5OF and M4OF and three zeros; JFAL links the address in
the interpret stage in JR6. JRPX and JRMX jump when VPBSY was asserted for them. Else they do nothing (45 R591, R592, R601 to R603,
R612). -/
def Obligations.TallyFieldAndExternalJumps : Prop :=
  (∀ (d : Byte) (s : State),
    (s.cpc.tally = 0#16 → exec (.jtnz d) s = .next s ∧ exec (.djtnz d) s = .next s) ∧
    (s.cpc.tally ≠ 0#16 →
      (∃ t, exec (.jtnz d) s = .next t ∧ t.cpc.tally.toNat + 1 = s.cpc.tally.toNat ∧ JumpsNow t (AddressBehind s d.toNat) ∧
        KeepsButFlow s { t with cpc := { t.cpc with tally := s.cpc.tally } }) ∧
      (∃ t, exec (.djtnz d) s = .next t ∧ t.cpc.tally.toNat + 1 = s.cpc.tally.toNat ∧
        JumpsLater s t (AddressBehind s d.toNat) ∧ KeepsButFlow s { t with cpc := { t.cpc with tally := s.cpc.tally } }))) ∧
  (∀ (d : Byte) (s : State),
    let c := (∃ n, 2 ≤ n ∧ n ≤ 5 ∧ bitAt s.cpc.sr n = true) ∧ s.cpc.tally ≠ 0#16
    let a : Half := BitVec.ofNat 16 ((s.jr 7).toNat / 256 * 256 + (bitAt s.cpc.sr 1).toNat * 128 + s.cpc.sr.toNat / 2 % 16 * 8)
    JumpsNowIf .jfa s c a ∧
    (c → ∃ t, exec .jfal s = .next t ∧ JumpsNow t a ∧ t.jr 6 = s.pipe.iar ∧ (∀ q, q ≠ 6 → t.jr q = s.jr q) ∧
      KeepsButFlow s { t with cpc := { t.cpc with jr := s.cpc.jr } }) ∧
    (¬c → exec .jfal s = .next s) ∧
    JumpsNowIf (.jrpx d) s (s.pipe.vpbsy = true) (AddressAhead s d.toNat) ∧
    JumpsNowIf (.jrmx d) s (s.pipe.vpbsy = true) (AddressBehind s d.toNat))

/-! ### Setup and emulation (46) -/

/-- TSB, TSBC, TSLDC, TSRDC, SETSX and LTS move bytes and digits of the setup registers, extended as their pages say, and change
nothing else (46 R655 to R660). -/
def Obligations.SetupTransfers : Prop := ∀ (j : RsuNum) (s : State),
  let low := s.cpc.sur1.toNat % 256
  (∃ t, exec (.tsb j) s = .next t ∧ (t.rsu j).toNat = (s.rsu j).toNat / 2 ^ 16 * 2 ^ 16 + low ∧ Frame s t [j] []) ∧
  (∃ t, exec (.tsbc j) s = .next t ∧ (t.rsu j).toNat = low ∧ Frame s t [j] []) ∧
  (∃ t, exec (.tsldc j) s = .next t ∧ (t.rsu j).toNat = low / 16 ∧ Frame s t [j] []) ∧
  (∃ t, exec (.tsrdc j) s = .next t ∧ (t.rsu j).toNat = low % 16 ∧ Frame s t [j] []) ∧
  (∃ t, exec (.setsx j) s = .next t ∧ (t.rsu j).toInt = s.cpc.sur2.toInt ∧ Frame s t [j] []) ∧
  (∃ t, exec .lts s = .next t ∧ t.cpc.tally.toNat = s.cpc.sur5.toNat ∧ { t with cpc := { t.cpc with tally := s.cpc.tally } } = s)

/-- MII, MIN and MIV with the enables their pages allow: each virtual indicator takes what its enable says or stays; nothing else
changes (46 R652 to R654). -/
def Obligations.IndicatorMaps : Prop := ∀ (en : Byte) (s : State),
  let on := fun n => bitAt en n = true
  let via := fun (t : State) n => bitAt t.cpc.via n
  let keeps := fun (t : State) (ns : List Nat) => (∀ n, 1 ≤ n → n ≤ 16 → n ∉ ns → via t n = via s n) ∧
    { t with cpc := { t.cpc with via := s.cpc.via } } = s
  (mapEnablesIbm en = true → ∃ t, exec (.mii en) s = .next t ∧ keeps t [1, 2] ∧
    via t 1 = (if on 1 then s.indAt 1 else if on 3 then !s.indAt 2 else if on 5 then s.indAt 4 else if on 6 then s.indAt 5
      else via s 1) ∧
    via t 2 = (if on 2 then s.indAt 3 else if on 4 then s.indAt 4 else if on 5 then s.indAt 4 else if on 6 then s.indAt 5
      else via s 2)) ∧
  (mapEnablesNvm en = true → ∃ t, exec (.min en) s = .next t ∧ keeps t [1, 2, 3, 7] ∧
    (∀ n, 1 ≤ n → n ≤ 3 → via t n = if on n then s.indAt n else via s n) ∧
    via t 7 = (if on 4 then s.indAt 4 else if on 5 then !s.indAt 4 else via s 7)) ∧
  (mapEnablesVrx en = true → ∃ t, exec (.miv en) s = .next t ∧ keeps t [1, 2, 3, 6, 7] ∧
    (∀ n, 1 ≤ n → n ≤ 3 → via t n = if on n then s.indAt n else via s n) ∧
    via t 7 = (if on 4 then s.indAt 4 else if on 5 then s.indAt 5 else via s 7) ∧
    via t 6 = (if on 6 then false else if on 7 then true else via s 6))

/-- JMPIA and JMPNA: to the BCT flow while BCT is 1; with the pointer of MARS7 at the right half, on with that half as the new `SUR1`
to the setup (for NVM formats RR2: execution) routine; with the pointer at the left half to the overflow routine at `SUR4`; at an odd
pointer refused by name. JMPIB and JMPNB do it with the left half of MARS7; JMPIB also leaves the match, which I6 takes in the cycle
following. The routine of an IBM format is a parameter (SETUP_DECODE), the order of the vectors in `SUR3` a decision of the spec
(R636, D36); which mask bit faces which condition code is the model's choice, the family's (log 18) (46 R631, R634 to R637, R640,
R641, R643, R644). -/
def Obligations.SetupJumps : Prop :=
  let ibmPointer := fun (s : State) (h : Half) =>
    if Config.ibmFormat h = .rx then
      let b := if s.plat.rxOptr2FromSur1 = true then h.toNat % 16 else s.cpc.sur2.toNat / 4096
      96 + b + if b = 0 then 16 else 0
    else 96 + h.toNat % 16
  let nvmPointer := fun (h : Half) =>
    if Config.nvmFormat h = .rm then 96 + if h.toNat % 8 = 0 then 16 else h.toNat % 8
    else 96 + h.toNat % 16 + if h.toNat % 16 = 15 then 128 else 0
  (∀ (r : JrNum) (s : State),
    let h := rightHalf (s.rsu 15)
    let common := fun (i : Instr) =>
      (s.ca1At 9 = true → ∃ t, exec i s = .next t ∧ JumpsLater s t (s.jr r) ∧ KeepsButFlow s t) ∧
      (s.ca1At 9 = false → s.pointer 14 = 0#2 → ∃ t, exec i s = .next t ∧ JumpsLater s t s.cpc.sur4 ∧ KeepsButFlow s t) ∧
      (s.ca1At 9 = false → (s.pointer 14).toNat % 2 = 1 → exec i s = .refused .oddSetupPointer)
    let setup := fun (t : State) => t.cpc.sur1 = h ∧ t.cpc.sur5.toNat = h.toNat % 256 ∧ t.rsu 14 = movedBy (s.rsu 14) 2#2 ∧
      KeepsRsu s t [14] ∧ t.cpc.sr = s.cpc.sr ||| 0b10000#16 ∧ t.cpc.sptr = s.cpc.sptr ∧ t.cpc.tally = s.cpc.tally ∧
      t.cpc.ind = s.cpc.ind ∧ t.mem = s.mem ∧ t.atc = s.atc
    common (.jmpia r 15) ∧ common (.jmpna r 15) ∧
    (s.ca1At 9 = false → s.pointer 14 = 2#2 →
      (∃ t, exec (.jmpia r 15) s = .next t ∧ setup t ∧ JumpsLater s t (Config.ibmSetupAddr h s.cpc.sur3) ∧
        t.cpc.optr1.toNat = 96 + h.toNat / 16 % 16 ∧ t.cpc.optr2.toNat = ibmPointer s h) ∧
      (∃ t, exec (.jmpna r 15) s = .next t ∧ setup t ∧
        t.cpc.optr1.toNat = (if h.toNat / 16 % 16 = 15 then 128 else 0) + 96 + h.toNat / 16 % 16 ∧
        t.cpc.optr2.toNat = nvmPointer h ∧
        JumpsLater s t (if Config.nvmFormat h = .rr2 then BitVec.ofNat 16 (s.cpc.sur3.toNat % 16 * 4096 + h.toNat / 256 * 16)
          else BitVec.ofNat 16 (s.cpc.sur3.toNat / 256 * 256 + (Config.nvmF h).toNat * 16))))) ∧
  (∀ s : State,
    let h := leftHalf (s.rsu 15)
    let setup := fun (t : State) => t.cpc.sur1 = h ∧ t.cpc.sur5.toNat = h.toNat % 256 ∧ (∀ r, t.rsu r = s.rsu r) ∧
      t.cpc.sr = s.cpc.sr ∧ t.cpc.sptr = s.cpc.sptr ∧ t.cpc.tally = s.cpc.tally ∧ t.mem = s.mem ∧ t.atc = s.atc
    (∃ t, exec (.jmpib 15) s = .next t ∧ setup t ∧ t.cpc.ind = s.cpc.ind ∧ t.cpc.optr1.toNat = 96 + h.toNat / 16 % 16 ∧
      t.cpc.optr2.toNat = ibmPointer s h ∧
      (∃ b, t.pipe.lateMatch = some b ∧
        (b = true ↔ bitAt h (8 - s.cpc.via.toNat % 4) = true ∧ ¬(Config.ibmFormat h = .rr ∧ h.toNat % 16 = 0))) ∧
      (match Config.ibmFormat h with
        | .rr => JumpsLater s t (Config.ibmExecAddr h s.cpc.sur3)
        | .rx => JumpsLater s t (Config.ibmSetupAddr h s.cpc.sur3)
        | .other => JumpsNow t (Config.ibmSetupAddr h s.cpc.sur3))) ∧
    (∃ t, exec (.jmpnb 15) s = .next t ∧ setup t ∧ t.cpc.ind = s.cpc.ind ∧
      t.cpc.optr1.toNat = (if h.toNat / 16 % 16 = 15 then 128 else 0) + 96 + h.toNat / 16 % 16 ∧
      t.cpc.optr2.toNat = nvmPointer h ∧
      (let setupAt : Half := BitVec.ofNat 16 (s.cpc.sur3.toNat / 256 * 256 + 128 + (Config.nvmF h).toNat * 16)
       let execAt : Half := BitVec.ofNat 16 (s.cpc.sur3.toNat % 16 * 4096 + h.toNat / 256 * 16)
       match Config.nvmFormat h with
        | .mm => JumpsNow t setupAt
        | .rm => JumpsLater s t setupAt
        | .rr1 => JumpsLater s t execAt
        | .rr2 => JumpsNow t execAt
        | .ri => JumpsNow t execAt)))

/-- JMPIC, JMPNC, JMPVC and JMPD, the execution jumps: JMPIC leaves the match, which I6 takes in the cycle following, JMPNC of an
indirect RM instruction goes to the indirect routine and clears the bit, JMPVC makes a tally of 0 into 256 (the test of all sixteen
bits of TALLY, where R648 says nine, is the model's choice, log 57), JMPD takes its byte from a register. JMPVA and JMPVB load `SUR1`
(and JMPVB `SUR5`) from the left half of MARS7 and jump to the VRX setup routine that the base, the class of the index field and the
mode select. The addresses of IBM and description routines and the fields IR and M of `SUR1` bits 8 to 1 are parameters
(SETUP_DECODE), the order of the vectors in `SUR3` a decision of the spec (R636, D36); which mask bit faces which condition code is
the model's choice, the family's (log 18) (46 R631, R632, R636, R637, R642, R645 to R649). -/
def Obligations.ExecutionAndVrxJumps : Prop :=
  (∀ (k : RsuNum) (s : State),
    let q := s.cpc.sur1.toNat / 256
    (∃ t, exec .jmpic s = .next t ∧ JumpsLater s t (Config.ibmExecAddr s.cpc.sur1 s.cpc.sur3) ∧
      (∃ b, t.pipe.lateMatch = some b ∧ (b = true ↔ bitAt s.cpc.sur1 (8 - s.cpc.via.toNat % 4) = true ∧
        ¬(Config.ibmFormat s.cpc.sur1 = .rr ∧ s.cpc.sur1.toNat % 16 = 0))) ∧
      KeepsButFlow s { t with pipe := { t.pipe with lateMatch := s.pipe.lateMatch } }) ∧
    (∃ t, exec .jmpnc s = .next t ∧ KeepsButFlow s { t with cpc := { t.cpc with sur1 := s.cpc.sur1 } } ∧
      (if Config.nvmFormat s.cpc.sur1 = .rm ∧ bitAt s.cpc.sur1 4 = true then
        JumpsLater s t (BitVec.ofNat 16 (s.cpc.sur3.toNat / 16 % 16 * 4096 + q * 16)) ∧ t.cpc.sur1 = s.cpc.sur1 &&& 0xFFF7#16
      else JumpsLater s t (BitVec.ofNat 16 (s.cpc.sur3.toNat % 16 * 4096 + q * 16)) ∧ t.cpc.sur1 = s.cpc.sur1)) ∧
    (∃ t, exec .jmpvc s = .next t ∧ JumpsLater s t (BitVec.ofNat 16 (s.cpc.sur3.toNat % 16 * 4096 + q % 128 * 16)) ∧
      t.cpc.tally.toNat = (if s.cpc.tally.toNat = 0 then 256 else s.cpc.tally.toNat) ∧
      KeepsButFlow s { t with cpc := { t.cpc with tally := s.cpc.tally } }) ∧
    (∃ t, exec (.jmpd k) s = .next t ∧ t.cpc.sur1.toNat = (s.rsu k).toNat / 2 ^ 24 * 256 + s.cpc.sur1.toNat % 256 ∧
      t.pipe.crNext = some (s.cpc.sur4.extractLsb' 8 8 ++ Config.descVector (BitVec.ofNat 8 ((s.rsu k).toNat / 2 ^ 24))) ∧
      t.pipe.skip = (if (s.rsu k).toNat / 2 ^ 24 % 16 = 0 then 2#2 else s.pipe.skip) ∧
      KeepsButFlow s { t with cpc := { t.cpc with sur1 := s.cpc.sur1 } })) ∧
  (∀ s : State,
    let h := leftHalf (s.rsu 15)
    let low := fun (x : Half) => BitVec.ofNat 8 x.toNat
    let cls := fun (x : Byte) => if Config.vrxIR x = 0#6 then 1 else if Config.vrxIR x = 63#6 then 2 else 0
    (∃ t, exec .jmpva s = .next t ∧ t.cpc.sur1 = h ∧
      JumpsLater s t (BitVec.ofNat 16 (s.cpc.sur3.toNat / 16 % 16 * 4096 + h.toNat / 2 ^ 15 * 256 + cls (low h) * 64 +
        (Config.vrxM (low h)).toNat * 16)) ∧
      KeepsButFlow s { t with cpc := { t.cpc with sur1 := s.cpc.sur1 } }) ∧
    (∃ t, exec .jmpvb s = .next t ∧ t.cpc.sur1.toNat = s.cpc.sur1.toNat / 256 * 256 + h.toNat % 256 ∧
      t.cpc.sur5.toNat = h.toNat / 256 ∧
      JumpsLater s t (BitVec.ofNat 16 (s.cpc.sur3.toNat / 256 * 256 + cls (low t.cpc.sur1) * 64 +
        (Config.vrxM (low t.cpc.sur1)).toNat * 16)) ∧
      KeepsButFlow s { t with cpc := { t.cpc with sur1 := s.cpc.sur1, sur5 := s.cpc.sur5 } }))

/-- SETIA and SETNA take the next halfword of MARS7, at an even pointer, as `SUR2` and move the pointer by two: SETIA leaves the
displacement in RSU[j] and the base in the second pointer; SETNA leaves the displacement (RM, MM) or the sign-extended halfword and the
match in I6 (RI); in RM and MM I6 stays (R651), or is reset (10 R59), a parameter (log 50). With j = 14 the pointer ends two further than it was (the model's
choice, log 41). At an odd pointer both, and in the RR formats SETNA, are refused (10 R59; 46 R633, R635, R637, R650, R651). -/
def Obligations.SetupAssists : Prop := ∀ (j : RsuNum) (s : State),
  let half := if s.pointer 14 = 0#2 then leftHalf (s.rsu 15) else rightHalf (s.rsu 15)
  let common := fun (t : State) (w : Word) => t.cpc.sur2 = half ∧
    (∀ r, t.rsu r = if r = 14#4 then pointedAt (if j = 14#4 then w else s.rsu 14) (s.pointer 14 + 2)
      else if r = j then w else s.rsu r) ∧
    t.cpc.sur1 = s.cpc.sur1 ∧ t.cpc.optr1 = s.cpc.optr1 ∧ t.cpc.tally = s.cpc.tally ∧ t.mem = s.mem ∧ t.atc = s.atc ∧
    t.pipe = s.pipe ∧ (bitAt t.cpc.sr 5 = true ↔ bitAt s.cpc.sr 5 = true ∨ s.pointer 14 = 2#2) ∧
    (∀ n, 1 ≤ n → n ≤ 16 → n ≠ 5 → bitAt t.cpc.sr n = bitAt s.cpc.sr n)
  ((s.pointer 14).toNat % 2 = 1 →
    exec (.setia j 15) s = .refused .oddSetupPointer ∧ exec (.setna j) s = .refused .oddSetupPointer) ∧
  ((s.pointer 14).toNat % 2 = 0 →
    (∃ t w, exec (.setia j 15) s = .next t ∧ common t w ∧ w.toNat = half.toNat % 4096 ∧ t.cpc.ind = s.cpc.ind ∧
      t.cpc.optr2.toNat = 96 + half.toNat / 4096 + if half.toNat / 4096 = 0 then 16 else 0) ∧
    (let displaces := ∃ t w, exec (.setna j) s = .next t ∧ common t w ∧ w.toNat = half.toNat % 4096 ∧ KeepsInd s t [6] ∧
      (t.indAt 6 = true ↔ s.indAt 6 = true ∧ s.plat.setnaResets = false) ∧
      t.cpc.optr2.toNat = 96 + half.toNat / 4096 + if half.toNat / 4096 = 15 then 128 else 0
     match Config.nvmFormat s.cpc.sur1 with
      | .rm => displaces
      | .mm => displaces
      | .ri => ∃ t w, exec (.setna j) s = .next t ∧ common t w ∧ w.toInt = half.toInt ∧ t.cpc.optr2 = s.cpc.optr2 ∧
        KeepsInd s t [6] ∧ (t.indAt 6 = true ↔ ∃ n : BitVec 2, s.cpc.sur1.getLsbD n.toNat = true ∧
          s.cpc.via.getLsbD (Config.nvmCBit n).toNat = true)
      | .rr1 => exec (.setna j) s = .refused .setnaFormat
      | .rr2 => exec (.setna j) s = .refused .setnaFormat))

/-! ### Controls, links, the bus (47) -/

/-- SC (operation code 94) ORs its literal into `CA1` bits 16 to 9, RC (95) ANDs its complement; I8 is the copy of bit 9, and nothing
else changes (47 R676, R677). -/
def Obligations.ControlsSetAndReset : Prop := ∀ (lit : Byte) (l : Half) (s : State),
  (decode (0x94#8 ++ lit) l = .ok (.sc lit) ∧ ∃ t, exec (.sc lit) s = .next t ∧
    (∀ n, 9 ≤ n → n ≤ 16 → (t.ca1At n = true ↔ s.ca1At n = true ∨ bitAt lit (n - 8) = true)) ∧ t.indAt 8 = t.ca1At 9 ∧
    (∀ n, 1 ≤ n → n ≤ 7 → t.indAt n = s.indAt n) ∧ { t with cpc := { t.cpc with ca1 := s.cpc.ca1 } } = s) ∧
  (decode (0x95#8 ++ lit) l = .ok (.rc lit) ∧ ∃ t, exec (.rc lit) s = .next t ∧
    (∀ n, 9 ≤ n → n ≤ 16 → (t.ca1At n = true ↔ s.ca1At n = true ∧ bitAt lit (n - 8) = false)) ∧ t.indAt 8 = t.ca1At 9 ∧
    (∀ n, 1 ≤ n → n ≤ 7 → t.indAt n = s.indAt n) ∧ { t with cpc := { t.cpc with ca1 := s.cpc.ca1 } } = s)

/-- SCO (word 9E00) makes I4 one; RIZ (word 9F00) makes I4, I5 and I6 zero; nothing else changes (47 R678, R679). -/
def Obligations.CarrySetAndIndicatorsReset : Prop := ∀ (l : Half) (s : State),
  (decode 0x9E00 l = .ok .sco ∧ ∃ t, exec .sco s = .next t ∧ t.indAt 4 = true ∧ Frame s t [] [4]) ∧
  (decode 0x9F00 l = .ok .riz ∧ ∃ t, exec .riz s = .next t ∧ t.indAt 4 = false ∧ t.indAt 5 = false ∧ t.indAt 6 = false ∧
    Frame s t [] [4, 5, 6])

/-- LINK and LINKM put the instruction's address plus or minus their literal in a jump register, ACRL puts the sum in the right half
of a general register; nothing else changes (44 R539; 47 R681, R682). -/
def Obligations.LinkAddresses : Prop := ∀ (r : JrNum) (j : RsuNum) (k : Lit4) (s : State),
  let links := fun (i : Instr) (a : Half) => ∃ t, exec i s = .next t ∧ t.jr r = a ∧ (∀ q, q ≠ r → t.jr q = s.jr q) ∧
    { t with cpc := { t.cpc with jr := s.cpc.jr } } = s
  links (.link r k) (AddressAhead s k.toNat) ∧ links (.linkm r k) (AddressBehind s k.toNat) ∧
  (∃ t, exec (.acrl j k) s = .next t ∧
    (t.rsu j).toNat = (s.rsu j).toNat / 2 ^ 16 * 2 ^ 16 + (s.pipe.ear.toNat + k.toNat) % 2 ^ 16 ∧ Frame s t [j] [])

/-- EAF sets EAC BUSY (I7) and EACA; WPMB sets nothing. Either lets a fetched word that was not received go by; with none waiting
nothing else changes (40 R361; 47 R672, R673). -/
def Obligations.BusCommands : Prop := ∀ (lit : Byte) (s : State),
  (∃ t, exec (.eaf lit) s = .next t ∧ t.indAt 7 = true ∧ t.ca1At 14 = true ∧
    (∀ n, 9 ≤ n → n ≤ 16 → n ≠ 14 → t.ca1At n = s.ca1At n) ∧ t.cpc.fetch = none ∧ (∀ r, t.rsu r = s.rsu r) ∧
    KeepsInd s t [7] ∧ t.mem = s.mem ∧ t.pipe = s.pipe ∧ KeepsAtcControls s t ∧
    (s.cpc.fetch = none →
      Frame s { t with cpc := { t.cpc with ca1 := s.cpc.ca1 }, atc := { t.atc with rrResetting := s.atc.rrResetting } } [] [7])) ∧
  (∃ t, exec .wpmb s = .next t ∧ t.cpc = { s.cpc with fetch := none } ∧ t.mem = s.mem ∧ t.pipe = s.pipe ∧
    KeepsAtcControls s t ∧ (s.cpc.fetch = none → t = s))

/-! ### Encodings (30) -/

/-- Decoding the encoding of a well-formed instruction gives it back, whatever follows a one-word instruction (30 R325, R333). -/
def Obligations.DecodeOfEncode : Prop := ∀ (i : Instr) (l : Half), i.wellFormed = true →
  decode (encodeWord i) (i.literal.getD l) = .ok i

/-- Every word that decodes is the encoding of the instruction it decodes to, which is well-formed and has the second word, if it
has one, as its literal; so no two instructions share a word. Operation code 5F is no instruction, and the step refuses a word with
it by name (30 R325, R333). -/
def Obligations.WordsThatDecode : Prop :=
  (∀ (w l : Half) (i : Instr), decode w l = .ok i →
    i.wellFormed = true ∧ encodeWord i = w ∧ (i.literal = none ∨ i.literal = some l)) ∧
  ((∀ (d : Byte) (l : Half), decode (0x5F#8 ++ d) l = .error .unassigned) ∧
    ∀ (s b : State) (d : Byte), s.begin = .ok b → b.pipe.xr = 0x5F#8 ++ d → b.now.pmrst = false → b.ca1At 13 = false →
      b.busWait = false → b.pipe.skip = 0#2 → step s = .refused (.notAnInstruction .unassigned))

/-- Words written out from the spec's encodings decode to the instructions they stand for (30 R325; the encodings of 40 to 47). -/
def Obligations.ListedWordsDecode : Prop :=
  decode 0x5123 0 = .ok (.tw 2 3) ∧ decode 0x4A12 0 = .ok (.aw 1 2) ∧ decode 0x9402 0 = .ok (.sc 2) ∧
    decode 0x1852 0 = .ok (.sl 5 2) ∧ decode 0x579B 0 = .ok .cbfu

/-! ### The step: the pipeline, exceptions, reset (10, 60, 70) -/

/-- The step executes the instruction it decodes: when the words in the execute and interpret stages decode to `i` at the start of
the cycle, with nothing voided, nothing to wait for, no reset and no broken restriction, the step is the meaning of `i` at that
state, then the end of the cycle: the ageing of a fetch, the ATC's part, and the trap, interrupt or next word. A broken restriction
refuses the step, also where the instruction itself would have to wait, and so does a message of another device before the cycle that
the ATC cannot take (10 R46, R48; 60 R720 to R723; 70 R768, R780). -/
def Obligations.StepRunsInstruction : Prop := ∀ s : State, (∀ r, s.begin = .error r → step s = .refused r) ∧
  ∀ (u : State) (i : Instr), s.begin = .ok u →
  let b : State := { u with pipe := { u.pipe with pmrstHeld := false } }
  b.now.pmrst = false → b.ca1At 13 = false → b.busWait = false → b.pipe.skip = 0#2 → decode b.pipe.xr b.pipe.ir = .ok i →
  (∀ r, b.hazard i = some r → step s = .refused r) ∧
  (b.operationWait i = false → b.receiveWait i = false → b.hazard i = none →
    (∀ t, exec i b = .next t → step s = .next ((afterExec i b t).finish (b.recognised (some i)))) ∧
    (∀ r, exec i b = .refused r → step s = .refused r))

/-- A slot to be voided executes nothing: the skip count goes down by one and the words move on. A cycle is held, whatever stands in
the execute stage, while the instruction in the interpret stage needs the bus and BAV is negated: another device asks for the bus and
REQS is negated, or a memory operation runs. It is held too while the instruction in the execute stage needs the bus and a memory
operation runs, or is an RCV without its word. A held cycle changes nothing in the pipeline and nothing in the CPC but EAC BUSY and
the age of an aborted fetch; the match of a JMPIB or JMPIC that I6 was to take waits for the next cycle. That a literal or a word the
skip count voids does not count in the interpret stage, that a running operation counts as BAV negated and also holds the execute
stage, that the age counts held cycles, and that I6 takes the match in a voided cycle too, are the model's choice (logs 42, 43, 45,
54). Either leaves every byte of memory as it was when the cycle began (10 R47, R49; 11 R141; 22 R275, R277, R290; 46 R637; 60 R721;
70 R796). -/
def Obligations.VoidedSlotsAndWaits : Prop :=
  (∀ s b : State, s.begin = .ok b →
    b.now.pmrst = false → b.ca1At 13 = false → b.busWait = false → b.pipe.skip ≠ 0#2 → b.wanted = none →
    ∃ t, step s = .next t ∧ t.pipe.skip = b.pipe.skip - 1 ∧ t.pipe.xr = b.pipe.ir ∧ t.pipe.cr = b.nextCr ∧
      (∀ r, t.rsu r = b.rsu r) ∧ KeepsInd b t [6, 7] ∧ t.indAt 6 = b.pipe.dueMatch.getD (b.indAt 6) ∧ t.mem = b.mem ∧
      t.cpc.jr = b.cpc.jr ∧ t.cpc.ca1 = b.cpc.ca1) ∧
  (∀ s u : State, s.begin = .ok u →
    let b : State := { u with pipe := { u.pipe with pmrstHeld := false } }
    let holds := ∃ t, step s = .next t ∧ t.pipe = { b.pipe with lateMatch := b.pipe.dueMatch, dueMatch := none } ∧
      t.mem = b.mem ∧ KeepsInd b t [7] ∧
      { t.cpc with ind := b.cpc.ind, fetch := b.cpc.fetch } = b.cpc ∧
      (∀ n, b.cpc.fetch = some { data := none, age := n } → t.cpc.fetch = some { data := none, age := n + 1 }) ∧
      ((∀ n, b.cpc.fetch ≠ some { data := none, age := n }) → t.cpc.fetch = b.cpc.fetch)
    b.now.pmrst = false → b.ca1At 13 = false →
    (∀ i, decode b.pipe.ir (b.isuAt b.pipe.cr) = .ok i → needsBus i = true → b.pipe.skip = 0#2 ∨ b.pipe.skip = 1#2 →
      (b.pipe.skip = 0#2 → ∀ x, decode b.pipe.xr b.pipe.ir = .ok x → x.literal = none) →
      (b.now.bavNegated = true ∧ b.atc.reqs = false ∧ b.atc.busy2 = false) ∨ b.atc.seq ≠ .idle → holds) ∧
    (∀ i, b.busWait = false → b.pipe.skip = 0#2 → decode b.pipe.xr b.pipe.ir = .ok i → b.hazard i = none →
      (needsBus i = true ∧ b.atc.seq ≠ .idle) ∨ (isRcv i = true ∧ b.wordOnBus = none ∧ b.wanted = none) → holds))

/-- At the ordinary end of a cycle every word moves on one stage, the fetch stage reads the instruction store at `CR`, and `CR` goes
to the jump of the cycle or to the next address (10 R46). -/
def Obligations.PipelineMovesOn : Prop := ∀ s : State,
  let t := s.finish none
  t.pipe.xr = s.pipe.ir ∧ t.pipe.ear = s.pipe.iar ∧ t.pipe.ir = s.isuAt s.pipe.cr ∧ t.pipe.iar = s.pipe.cr ∧
    (∀ a, s.pipe.crNext = some a → t.pipe.cr = a) ∧
    (s.pipe.crNext = none → t.pipe.cr = BitVec.ofNat 16 (s.pipe.cr.toNat + 1)) ∧
    t.pipe.crNext = none ∧ t.pipe.skip = s.pipe.skip ∧
    (s.cpc.fifoRun = true → s.pipe.fifoShifted = false →
      t.cpc.eari = s.cpc.iari ∧ t.cpc.iari = s.cpc.cri ∧ t.cpc.cri = t.pipe.cr) ∧
    (s.cpc.fifoRun = false → t.cpc.eari = s.cpc.eari ∧ t.cpc.iari = s.cpc.iari ∧ t.cpc.cri = s.cpc.cri)

/-- Taking a trap or an interrupt: the pipeline goes to address 0 or 2 with two words voided; while the Restore FIFO runs it keeps
the addresses in interpret and fetch and the one after them, `CA1` bits 16 and 15 keep the skip count, and the FIFO stops; a trap
sets TI, an interrupt clears NIE; every other control bit, the general registers, the indicators I1 to I7, the tally and memory
stay (60 R722, R725). -/
def Obligations.EntrySavesTheFlow : Prop := ∀ (s : State) (e : Entry),
  let t := s.enter e
  t.pipe.cr = (match e with | .trap => 0#16 | .interrupt => 2#16) ∧ t.pipe.skip = 2#2 ∧ t.cpc.fifoRun = false ∧
    t.pipe.xr = s.pipe.ir ∧ t.pipe.ir = s.isuAt s.pipe.cr ∧
    (s.cpc.fifoRun = true → t.cpc.eari = s.pipe.iar ∧ t.cpc.iari = s.pipe.cr ∧ t.cpc.cri = s.nextCr ∧
      t.ca1At 16 = bitAt s.pipe.skip 2 ∧ t.ca1At 15 = bitAt s.pipe.skip 1) ∧
    (s.cpc.fifoRun = false → t.cpc.eari = s.cpc.eari ∧ t.cpc.iari = s.cpc.iari ∧ t.cpc.cri = s.cpc.cri ∧
      t.ca1At 16 = s.ca1At 16 ∧ t.ca1At 15 = s.ca1At 15) ∧
    t.ca1At 11 = (match e with | .trap => true | .interrupt => s.ca1At 11) ∧
    t.ca1At 10 = (match e with | .trap => s.ca1At 10 | .interrupt => false) ∧
    (∀ n, n = 9 ∨ n = 12 ∨ n = 13 ∨ n = 14 → t.ca1At n = s.ca1At n) ∧
    (∀ r, t.rsu r = s.rsu r) ∧ t.cpc.ind = s.cpc.ind ∧ t.cpc.tally = s.cpc.tally ∧ t.cpc.sr = s.cpc.sr ∧ t.mem = s.mem ∧
    t.atc = s.atc

/-- What is taken at the end of a cycle: a trap when its wire is asserted and TI is 0; else an interrupt when its wire is
asserted, TI is 0 and NIE is 1; neither during a fetch, MRR or TIE. A voided slot recognises whatever its word (the model's choice, log
58). The trap wire is asserted by the bits 13, 14 and 16 of `ITA`, by the breakpoint hardware, and from outside. The interrupt wire is
asserted from outside, and by the bits 4 to 12 of `ITA`, bit 10 only while `CA2` bit 10 is 0, but not while a fetched word is still to come
or in the first slot after a fetch that was stopped (60 R720 to R724, R730, R731). -/
def Obligations.WhatIsRecognised : Prop := ∀ (s : State) (i : Instr),
  let fetches := match i with
    | .mrr _ | .fr _ | .f _ | .lfa _ _ | .lfal _ _ | .lfd _ _ | .fl _ | .tie _ _ => True
    | _ => False
  (s.recognised (some i) = some .trap ↔ ¬fetches ∧ s.trapPin = true ∧ s.ca1At 11 = false) ∧
  (s.recognised (some i) = some .interrupt ↔
    ¬fetches ∧ ¬(s.trapPin = true) ∧ s.intPin = true ∧ s.ca1At 11 = false ∧ s.ca1At 10 = true) ∧
  (s.recognised none = some .trap ↔ s.trapPin = true ∧ s.ca1At 11 = false) ∧
  (s.recognised none = some .interrupt ↔
    ¬(s.trapPin = true) ∧ s.intPin = true ∧ s.ca1At 11 = false ∧ s.ca1At 10 = true) ∧
  (s.trapPin = true ↔ (s.plat.atcPresent = true ∧ ∃ n ∈ [13, 14, 16], bitAt s.atc.ita n = true) ∨
    (s.plat.bkptHw = true ∧ s.bkpt.trap = true) ∨ s.now.extTrap = true) ∧
  (s.intPin = true ↔ s.now.extInt = true ∨ (s.plat.atcPresent = true ∧
    (∀ f age, s.cpc.fetch ≠ some { data := some f, age := age }) ∧ s.cpc.fetch ≠ some { data := none, age := 0 } ∧
    ∃ n, 4 ≤ n ∧ n ≤ 12 ∧ bitAt s.atc.ita n = true ∧ (n = 10 → s.ca2At 10 = false)))

/-- The return: an RTI jumps, with delay, to the bottom entry of the Restore FIFO, which goes to the top; with K2 = 0 the FIFO stops;
with K1 = 1 TI becomes 0 and NIE 1; with K2 = 1, and no trap or interrupt pending, the FIFO restarts and the skip count owed is due, 3
being refused; K4 and K3 are ignored. That a trap or an interrupt is pending when it would be taken in this cycle, and not merely when
its wire is asserted, is the model's choice (log 17). With breakpoint hardware and J05 = 1 the address jumped to gets J06 as its
breakpoint when the next cycle fetches it, and that fetch is not hit; every other breakpoint stays (47 R680; 60 R730; 90 C17). -/
def Obligations.ReturnStep : Prop := ∀ (jc : BitVec 2) (kc : Lit4) (s : State),
  let restarts := bitAt kc 2 = true ∧ s.wanted = none
  (restarts → s.cpc.ca1.toNat / 64 = 3 → exec (.rti jc kc) s = .refused .skipCountThree) ∧
  (¬(restarts ∧ s.cpc.ca1.toNat / 64 = 3) → ∃ t, exec (.rti jc kc) s = .next t ∧ t.pipe.crNext = some s.cpc.eari ∧
    t.cpc.eari = s.cpc.iari ∧ t.cpc.iari = s.cpc.cri ∧ t.cpc.cri = s.cpc.eari ∧
    (restarts → t.cpc.fifoRun = true ∧ t.pipe.skip.toNat = s.cpc.ca1.toNat / 64) ∧
    (¬restarts → t.pipe.skip = s.pipe.skip ∧ t.cpc.fifoRun = (s.cpc.fifoRun && bitAt kc 2)) ∧
    t.ca1At 11 = (s.ca1At 11 && !bitAt kc 1) ∧ t.ca1At 10 = (s.ca1At 10 || bitAt kc 1) ∧
    (∀ n, 9 ≤ n → n ≤ 16 → n ≠ 10 → n ≠ 11 → t.ca1At n = s.ca1At n) ∧
    (s.plat.bkptHw = false ∨ bitAt jc 1 = false → t.bkpt = s.bkpt) ∧
    (s.plat.bkptHw = true → bitAt jc 1 = true → Table.canonical false s.bkpt.ram = true →
      t.bkpt.ram = s.bkpt.ram ∧ t.bkpt.enable = s.bkpt.enable ∧ t.bkpt.trap = s.bkpt.trap ∧
      (∀ a, Table.get false a t.advance.bkpt.ram =
        if a = s.cpc.eari.toNat then bitAt jc 2 else Table.get false a s.bkpt.ram) ∧
      t.advance.bkptHit = false) ∧
    (∀ r, t.rsu r = s.rsu r) ∧ t.cpc.ind = s.cpc.ind ∧ t.cpc.tally = s.cpc.tally ∧ t.mem = s.mem ∧ t.atc = s.atc)

/-- Three RTIs undo an entry once the wires of traps and interrupts are negated: the first with controls 0, K2 = 1 in the third only, and
K1 = 1 in the second, as in the standard sequence 0, 1, 2, or in the third. They jump to the interpret address, the fetch address and the
address after them, in this order, and the last restarts the FIFO with the skip count the entry found (47 R680; 60 R722). -/
def Obligations.ReturnUndoesEntry : Prop := ∀ (s : State) (e : Entry) (k2 k3 : Lit4), s.cpc.fifoRun = true → s.pipe.skip ≠ 3#2 →
  s.plat.bkptHw = false → s.trapPin = false → s.intPin = false → bitAt k2 2 = false → bitAt k3 2 = true →
  bitAt k2 1 = true ∨ bitAt k3 1 = true →
  ∃ t1 t2 t3, exec (.rti 0 0) (s.enter e) = .next t1 ∧ exec (.rti 0 k2) t1.advance = .next t2 ∧
    exec (.rti 0 k3) t2.advance = .next t3 ∧ t1.pipe.crNext = some s.pipe.iar ∧ t2.pipe.crNext = some s.pipe.cr ∧
    t3.pipe.crNext = some s.nextCr ∧ t3.pipe.skip = s.pipe.skip ∧ t3.cpc.fifoRun = true ∧ t3.ca1At 11 = false ∧
    t3.ca1At 10 = true ∧ (∀ r, t3.rsu r = s.rsu r) ∧ t3.cpc.ind = s.cpc.ind ∧ t3.cpc.jr = s.cpc.jr ∧ t3.mem = s.mem

/-- Every cycle with PMRST asserted, and the state after reset, have the values the spec gives: CR 0, two slots to void, the word of
address 0 in interpret, TI 1 and NUM, BCT, NIE, AT and EACA 0, EAC BUSY 0, the Restore FIFO halted, no fetch outstanding; with an ATC, bit
16 of `ITA` 1, `BIN` empty, the flags of `ITA` read, `BIN` pending, locked Syndrome Register and due refresh clear, REQS negated, the
sequencer idle. The first such cycle halts the FIFO after the next address; a later one keeps every other register of the CPC
but I6, which takes a late match (the model's choice, log 54). None changes memory but by the instruction in the execute stage of the first
one (10 R90; 11 R143; 70 R760, R762). -/
def Obligations.ResetState : Prop :=
  (∀ s b : State, s.begin = .ok b → b.now.pmrst = true → b.pipe.pmrstHeld = true →
    ∃ t, step s = .next t ∧ t.HasReset ∧ t.ca1At 16 = b.ca1At 16 ∧ t.ca1At 15 = b.ca1At 15 ∧
      (∀ n, 1 ≤ n → n ≤ 5 → t.indAt n = b.indAt n) ∧ t.indAt 6 = b.pipe.dueMatch.getD (b.indAt 6) ∧
      t.mem = b.mem ∧
      { t.cpc with ca1 := b.cpc.ca1, ind := b.cpc.ind, fifoRun := b.cpc.fifoRun, fetch := b.cpc.fetch }
        = b.cpc) ∧
  (∀ s b : State, s.begin = .ok b → b.now.pmrst = true → b.pipe.pmrstHeld = false →
    (∀ t, step s = .next t → t.HasReset) ∧
    (b.ca1At 13 = false → b.pipe.skip ≠ 0#2 → ∃ t, step s = .next t ∧ t.mem = b.mem ∧
      (∀ r, t.rsu r = b.rsu r) ∧ (b.cpc.fifoRun = true → b.pipe.fifoShifted = false →
        t.cpc.eari = b.cpc.iari ∧ t.cpc.iari = b.cpc.cri ∧ t.cpc.cri = b.nextCr))) ∧
  State.reset.HasReset

/-- The invariant holds after reset, the registers and memory without a reset value in the spec being as logs 1 to 3 choose. -/
def Obligations.ResetSatisfiesInvariant : Prop := State.reset.Inv

/-- Every step keeps the invariant: memory and the Breakpoint RAM stay in canonical form, the bits that read as zero stay zero, some
entry of the associative memory is unreferenced, the skip count is not 3, nothing is left over from the cycle (10 R56, R66; 11
R125; 20 R181; 21 R232). -/
def Obligations.StepKeepsInvariant : Prop := ∀ s t : State, s.Inv → step s = .next t → t.Inv
end

