-- ==== Sys2Proof/Laws/State.lean ====
section
/-! SUPPORT. One lemma per component of the state per update, so that no proof unfolds an update. -/

namespace Sys2Proof.Machine

variable (s : State)

/-! `setRsu` -/

@[simp] theorem State.setRsu_cpc (k : RsuNum) (v : Word) : (s.setRsu k v).cpc = { s.cpc with rsu := s.cpc.rsu.set k.toNat v k.isLt } := rfl
@[simp] theorem State.setRsu_pipe (k : RsuNum) (v : Word) : (s.setRsu k v).pipe = s.pipe := rfl
@[simp] theorem State.setRsu_atc (k : RsuNum) (v : Word) : (s.setRsu k v).atc = s.atc := rfl
@[simp] theorem State.setRsu_mem (k : RsuNum) (v : Word) : (s.setRsu k v).mem = s.mem := rfl
@[simp] theorem State.setRsu_plat (k : RsuNum) (v : Word) : (s.setRsu k v).plat = s.plat := rfl
@[simp] theorem State.setRsu_bkpt (k : RsuNum) (v : Word) : (s.setRsu k v).bkpt = s.bkpt := rfl
@[simp] theorem State.setRsu_inputs (k : RsuNum) (v : Word) : (s.setRsu k v).inputs = s.inputs := rfl
@[simp] theorem State.setRsu_now (k : RsuNum) (v : Word) : (s.setRsu k v).now = s.now := rfl
@[simp] theorem State.setRsu_fresh (k : RsuNum) (v : Word) : (s.setRsu k v).fresh = s.fresh := rfl

/-! `setJr` -/

@[simp] theorem State.setJr_cpc (j : JrNum) (v : Half) : (s.setJr j v).cpc = { s.cpc with jr := s.cpc.jr.set j.toNat v j.isLt } := rfl
@[simp] theorem State.setJr_pipe (j : JrNum) (v : Half) : (s.setJr j v).pipe = s.pipe := rfl
@[simp] theorem State.setJr_atc (j : JrNum) (v : Half) : (s.setJr j v).atc = s.atc := rfl
@[simp] theorem State.setJr_mem (j : JrNum) (v : Half) : (s.setJr j v).mem = s.mem := rfl
@[simp] theorem State.setJr_plat (j : JrNum) (v : Half) : (s.setJr j v).plat = s.plat := rfl
@[simp] theorem State.setJr_bkpt (j : JrNum) (v : Half) : (s.setJr j v).bkpt = s.bkpt := rfl
@[simp] theorem State.setJr_inputs (j : JrNum) (v : Half) : (s.setJr j v).inputs = s.inputs := rfl
@[simp] theorem State.setJr_now (j : JrNum) (v : Half) : (s.setJr j v).now = s.now := rfl
@[simp] theorem State.setJr_fresh (j : JrNum) (v : Half) : (s.setJr j v).fresh = s.fresh := rfl

/-! `setCa1` -/

@[simp] theorem State.setCa1_cpc (v : Byte) : (s.setCa1 v).cpc = { s.cpc with ca1 := v } := rfl
@[simp] theorem State.setCa1_pipe (v : Byte) : (s.setCa1 v).pipe = s.pipe := rfl
@[simp] theorem State.setCa1_atc (v : Byte) : (s.setCa1 v).atc = s.atc := rfl
@[simp] theorem State.setCa1_mem (v : Byte) : (s.setCa1 v).mem = s.mem := rfl
@[simp] theorem State.setCa1_plat (v : Byte) : (s.setCa1 v).plat = s.plat := rfl
@[simp] theorem State.setCa1_bkpt (v : Byte) : (s.setCa1 v).bkpt = s.bkpt := rfl
@[simp] theorem State.setCa1_inputs (v : Byte) : (s.setCa1 v).inputs = s.inputs := rfl
@[simp] theorem State.setCa1_now (v : Byte) : (s.setCa1 v).now = s.now := rfl
@[simp] theorem State.setCa1_fresh (v : Byte) : (s.setCa1 v).fresh = s.fresh := rfl

/-! `setInd` -/

@[simp] theorem State.setInd_cpc (v : BitVec 7) : (s.setInd v).cpc = { s.cpc with ind := v } := rfl
@[simp] theorem State.setInd_pipe (v : BitVec 7) : (s.setInd v).pipe = s.pipe := rfl
@[simp] theorem State.setInd_atc (v : BitVec 7) : (s.setInd v).atc = s.atc := rfl
@[simp] theorem State.setInd_mem (v : BitVec 7) : (s.setInd v).mem = s.mem := rfl
@[simp] theorem State.setInd_plat (v : BitVec 7) : (s.setInd v).plat = s.plat := rfl
@[simp] theorem State.setInd_bkpt (v : BitVec 7) : (s.setInd v).bkpt = s.bkpt := rfl
@[simp] theorem State.setInd_inputs (v : BitVec 7) : (s.setInd v).inputs = s.inputs := rfl
@[simp] theorem State.setInd_now (v : BitVec 7) : (s.setInd v).now = s.now := rfl
@[simp] theorem State.setInd_fresh (v : BitVec 7) : (s.setInd v).fresh = s.fresh := rfl

/-! `setTally` -/

@[simp] theorem State.setTally_cpc (v : Half) : (s.setTally v).cpc = { s.cpc with tally := v } := rfl
@[simp] theorem State.setTally_pipe (v : Half) : (s.setTally v).pipe = s.pipe := rfl
@[simp] theorem State.setTally_atc (v : Half) : (s.setTally v).atc = s.atc := rfl
@[simp] theorem State.setTally_mem (v : Half) : (s.setTally v).mem = s.mem := rfl
@[simp] theorem State.setTally_plat (v : Half) : (s.setTally v).plat = s.plat := rfl
@[simp] theorem State.setTally_bkpt (v : Half) : (s.setTally v).bkpt = s.bkpt := rfl
@[simp] theorem State.setTally_inputs (v : Half) : (s.setTally v).inputs = s.inputs := rfl
@[simp] theorem State.setTally_now (v : Half) : (s.setTally v).now = s.now := rfl
@[simp] theorem State.setTally_fresh (v : Half) : (s.setTally v).fresh = s.fresh := rfl

/-! `setSr` -/

@[simp] theorem State.setSr_cpc (v : Half) : (s.setSr v).cpc = { s.cpc with sr := v } := rfl
@[simp] theorem State.setSr_pipe (v : Half) : (s.setSr v).pipe = s.pipe := rfl
@[simp] theorem State.setSr_atc (v : Half) : (s.setSr v).atc = s.atc := rfl
@[simp] theorem State.setSr_mem (v : Half) : (s.setSr v).mem = s.mem := rfl
@[simp] theorem State.setSr_plat (v : Half) : (s.setSr v).plat = s.plat := rfl
@[simp] theorem State.setSr_bkpt (v : Half) : (s.setSr v).bkpt = s.bkpt := rfl
@[simp] theorem State.setSr_inputs (v : Half) : (s.setSr v).inputs = s.inputs := rfl
@[simp] theorem State.setSr_now (v : Half) : (s.setSr v).now = s.now := rfl
@[simp] theorem State.setSr_fresh (v : Half) : (s.setSr v).fresh = s.fresh := rfl

/-! `setVia` -/

@[simp] theorem State.setVia_cpc (v : Half) : (s.setVia v).cpc = { s.cpc with via := v } := rfl
@[simp] theorem State.setVia_pipe (v : Half) : (s.setVia v).pipe = s.pipe := rfl
@[simp] theorem State.setVia_atc (v : Half) : (s.setVia v).atc = s.atc := rfl
@[simp] theorem State.setVia_mem (v : Half) : (s.setVia v).mem = s.mem := rfl
@[simp] theorem State.setVia_plat (v : Half) : (s.setVia v).plat = s.plat := rfl
@[simp] theorem State.setVia_bkpt (v : Half) : (s.setVia v).bkpt = s.bkpt := rfl
@[simp] theorem State.setVia_inputs (v : Half) : (s.setVia v).inputs = s.inputs := rfl
@[simp] theorem State.setVia_now (v : Half) : (s.setVia v).now = s.now := rfl
@[simp] theorem State.setVia_fresh (v : Half) : (s.setVia v).fresh = s.fresh := rfl

/-! `setM6wt` -/

@[simp] theorem State.setM6wt_cpc (v : Digit) : (s.setM6wt v).cpc = { s.cpc with m6wt := v } := rfl
@[simp] theorem State.setM6wt_pipe (v : Digit) : (s.setM6wt v).pipe = s.pipe := rfl
@[simp] theorem State.setM6wt_atc (v : Digit) : (s.setM6wt v).atc = s.atc := rfl
@[simp] theorem State.setM6wt_mem (v : Digit) : (s.setM6wt v).mem = s.mem := rfl
@[simp] theorem State.setM6wt_plat (v : Digit) : (s.setM6wt v).plat = s.plat := rfl
@[simp] theorem State.setM6wt_bkpt (v : Digit) : (s.setM6wt v).bkpt = s.bkpt := rfl
@[simp] theorem State.setM6wt_inputs (v : Digit) : (s.setM6wt v).inputs = s.inputs := rfl
@[simp] theorem State.setM6wt_now (v : Digit) : (s.setM6wt v).now = s.now := rfl
@[simp] theorem State.setM6wt_fresh (v : Digit) : (s.setM6wt v).fresh = s.fresh := rfl

/-! `setFifo` -/

@[simp] theorem State.setFifo_cpc (e i c : Half) : (s.setFifo e i c).cpc = { s.cpc with eari := e, iari := i, cri := c } := rfl
@[simp] theorem State.setFifo_pipe (e i c : Half) : (s.setFifo e i c).pipe = s.pipe := rfl
@[simp] theorem State.setFifo_atc (e i c : Half) : (s.setFifo e i c).atc = s.atc := rfl
@[simp] theorem State.setFifo_mem (e i c : Half) : (s.setFifo e i c).mem = s.mem := rfl
@[simp] theorem State.setFifo_plat (e i c : Half) : (s.setFifo e i c).plat = s.plat := rfl
@[simp] theorem State.setFifo_bkpt (e i c : Half) : (s.setFifo e i c).bkpt = s.bkpt := rfl
@[simp] theorem State.setFifo_inputs (e i c : Half) : (s.setFifo e i c).inputs = s.inputs := rfl
@[simp] theorem State.setFifo_now (e i c : Half) : (s.setFifo e i c).now = s.now := rfl
@[simp] theorem State.setFifo_fresh (e i c : Half) : (s.setFifo e i c).fresh = s.fresh := rfl

/-! `setFifoRun` -/

@[simp] theorem State.setFifoRun_cpc (b : Bool) : (s.setFifoRun b).cpc = { s.cpc with fifoRun := b } := rfl
@[simp] theorem State.setFifoRun_pipe (b : Bool) : (s.setFifoRun b).pipe = s.pipe := rfl
@[simp] theorem State.setFifoRun_atc (b : Bool) : (s.setFifoRun b).atc = s.atc := rfl
@[simp] theorem State.setFifoRun_mem (b : Bool) : (s.setFifoRun b).mem = s.mem := rfl
@[simp] theorem State.setFifoRun_plat (b : Bool) : (s.setFifoRun b).plat = s.plat := rfl
@[simp] theorem State.setFifoRun_bkpt (b : Bool) : (s.setFifoRun b).bkpt = s.bkpt := rfl
@[simp] theorem State.setFifoRun_inputs (b : Bool) : (s.setFifoRun b).inputs = s.inputs := rfl
@[simp] theorem State.setFifoRun_now (b : Bool) : (s.setFifoRun b).now = s.now := rfl
@[simp] theorem State.setFifoRun_fresh (b : Bool) : (s.setFifoRun b).fresh = s.fresh := rfl

/-! `setSur1` -/

@[simp] theorem State.setSur1_cpc (v : Half) : (s.setSur1 v).cpc = { s.cpc with sur1 := v } := rfl
@[simp] theorem State.setSur1_pipe (v : Half) : (s.setSur1 v).pipe = s.pipe := rfl
@[simp] theorem State.setSur1_atc (v : Half) : (s.setSur1 v).atc = s.atc := rfl
@[simp] theorem State.setSur1_mem (v : Half) : (s.setSur1 v).mem = s.mem := rfl
@[simp] theorem State.setSur1_plat (v : Half) : (s.setSur1 v).plat = s.plat := rfl
@[simp] theorem State.setSur1_bkpt (v : Half) : (s.setSur1 v).bkpt = s.bkpt := rfl
@[simp] theorem State.setSur1_inputs (v : Half) : (s.setSur1 v).inputs = s.inputs := rfl
@[simp] theorem State.setSur1_now (v : Half) : (s.setSur1 v).now = s.now := rfl
@[simp] theorem State.setSur1_fresh (v : Half) : (s.setSur1 v).fresh = s.fresh := rfl

/-! `setSur2` -/

@[simp] theorem State.setSur2_cpc (v : Half) : (s.setSur2 v).cpc = { s.cpc with sur2 := v } := rfl
@[simp] theorem State.setSur2_pipe (v : Half) : (s.setSur2 v).pipe = s.pipe := rfl
@[simp] theorem State.setSur2_atc (v : Half) : (s.setSur2 v).atc = s.atc := rfl
@[simp] theorem State.setSur2_mem (v : Half) : (s.setSur2 v).mem = s.mem := rfl
@[simp] theorem State.setSur2_plat (v : Half) : (s.setSur2 v).plat = s.plat := rfl
@[simp] theorem State.setSur2_bkpt (v : Half) : (s.setSur2 v).bkpt = s.bkpt := rfl
@[simp] theorem State.setSur2_inputs (v : Half) : (s.setSur2 v).inputs = s.inputs := rfl
@[simp] theorem State.setSur2_now (v : Half) : (s.setSur2 v).now = s.now := rfl
@[simp] theorem State.setSur2_fresh (v : Half) : (s.setSur2 v).fresh = s.fresh := rfl

/-! `setSur5` -/

@[simp] theorem State.setSur5_cpc (v : Byte) : (s.setSur5 v).cpc = { s.cpc with sur5 := v } := rfl
@[simp] theorem State.setSur5_pipe (v : Byte) : (s.setSur5 v).pipe = s.pipe := rfl
@[simp] theorem State.setSur5_atc (v : Byte) : (s.setSur5 v).atc = s.atc := rfl
@[simp] theorem State.setSur5_mem (v : Byte) : (s.setSur5 v).mem = s.mem := rfl
@[simp] theorem State.setSur5_plat (v : Byte) : (s.setSur5 v).plat = s.plat := rfl
@[simp] theorem State.setSur5_bkpt (v : Byte) : (s.setSur5 v).bkpt = s.bkpt := rfl
@[simp] theorem State.setSur5_inputs (v : Byte) : (s.setSur5 v).inputs = s.inputs := rfl
@[simp] theorem State.setSur5_now (v : Byte) : (s.setSur5 v).now = s.now := rfl
@[simp] theorem State.setSur5_fresh (v : Byte) : (s.setSur5 v).fresh = s.fresh := rfl

/-! `setOptr1` -/

@[simp] theorem State.setOptr1_cpc (v : Byte) : (s.setOptr1 v).cpc = { s.cpc with optr1 := v } := rfl
@[simp] theorem State.setOptr1_pipe (v : Byte) : (s.setOptr1 v).pipe = s.pipe := rfl
@[simp] theorem State.setOptr1_atc (v : Byte) : (s.setOptr1 v).atc = s.atc := rfl
@[simp] theorem State.setOptr1_mem (v : Byte) : (s.setOptr1 v).mem = s.mem := rfl
@[simp] theorem State.setOptr1_plat (v : Byte) : (s.setOptr1 v).plat = s.plat := rfl
@[simp] theorem State.setOptr1_bkpt (v : Byte) : (s.setOptr1 v).bkpt = s.bkpt := rfl
@[simp] theorem State.setOptr1_inputs (v : Byte) : (s.setOptr1 v).inputs = s.inputs := rfl
@[simp] theorem State.setOptr1_now (v : Byte) : (s.setOptr1 v).now = s.now := rfl
@[simp] theorem State.setOptr1_fresh (v : Byte) : (s.setOptr1 v).fresh = s.fresh := rfl

/-! `setOptr2` -/

@[simp] theorem State.setOptr2_cpc (v : Byte) : (s.setOptr2 v).cpc = { s.cpc with optr2 := v } := rfl
@[simp] theorem State.setOptr2_pipe (v : Byte) : (s.setOptr2 v).pipe = s.pipe := rfl
@[simp] theorem State.setOptr2_atc (v : Byte) : (s.setOptr2 v).atc = s.atc := rfl
@[simp] theorem State.setOptr2_mem (v : Byte) : (s.setOptr2 v).mem = s.mem := rfl
@[simp] theorem State.setOptr2_plat (v : Byte) : (s.setOptr2 v).plat = s.plat := rfl
@[simp] theorem State.setOptr2_bkpt (v : Byte) : (s.setOptr2 v).bkpt = s.bkpt := rfl
@[simp] theorem State.setOptr2_inputs (v : Byte) : (s.setOptr2 v).inputs = s.inputs := rfl
@[simp] theorem State.setOptr2_now (v : Byte) : (s.setOptr2 v).now = s.now := rfl
@[simp] theorem State.setOptr2_fresh (v : Byte) : (s.setOptr2 v).fresh = s.fresh := rfl

/-! `setSptr` -/

@[simp] theorem State.setSptr_cpc (v : BitVec 5) : (s.setSptr v).cpc = { s.cpc with sptr := v } := rfl
@[simp] theorem State.setSptr_pipe (v : BitVec 5) : (s.setSptr v).pipe = s.pipe := rfl
@[simp] theorem State.setSptr_atc (v : BitVec 5) : (s.setSptr v).atc = s.atc := rfl
@[simp] theorem State.setSptr_mem (v : BitVec 5) : (s.setSptr v).mem = s.mem := rfl
@[simp] theorem State.setSptr_plat (v : BitVec 5) : (s.setSptr v).plat = s.plat := rfl
@[simp] theorem State.setSptr_bkpt (v : BitVec 5) : (s.setSptr v).bkpt = s.bkpt := rfl
@[simp] theorem State.setSptr_inputs (v : BitVec 5) : (s.setSptr v).inputs = s.inputs := rfl
@[simp] theorem State.setSptr_now (v : BitVec 5) : (s.setSptr v).now = s.now := rfl
@[simp] theorem State.setSptr_fresh (v : BitVec 5) : (s.setSptr v).fresh = s.fresh := rfl

/-! `void` -/

@[simp] theorem State.void_cpc (n : BitVec 2) : (s.void n).cpc = s.cpc := rfl
@[simp] theorem State.void_pipe (n : BitVec 2) : (s.void n).pipe = { s.pipe with skip := n } := rfl
@[simp] theorem State.void_atc (n : BitVec 2) : (s.void n).atc = s.atc := rfl
@[simp] theorem State.void_mem (n : BitVec 2) : (s.void n).mem = s.mem := rfl
@[simp] theorem State.void_plat (n : BitVec 2) : (s.void n).plat = s.plat := rfl
@[simp] theorem State.void_bkpt (n : BitVec 2) : (s.void n).bkpt = s.bkpt := rfl
@[simp] theorem State.void_inputs (n : BitVec 2) : (s.void n).inputs = s.inputs := rfl
@[simp] theorem State.void_now (n : BitVec 2) : (s.void n).now = s.now := rfl
@[simp] theorem State.void_fresh (n : BitVec 2) : (s.void n).fresh = s.fresh := rfl

/-! `jumpDelayed` -/

@[simp] theorem State.jumpDelayed_cpc (a : Half) : (s.jumpDelayed a).cpc = s.cpc := rfl
@[simp] theorem State.jumpDelayed_pipe (a : Half) : (s.jumpDelayed a).pipe = { s.pipe with crNext := some a } := rfl
@[simp] theorem State.jumpDelayed_atc (a : Half) : (s.jumpDelayed a).atc = s.atc := rfl
@[simp] theorem State.jumpDelayed_mem (a : Half) : (s.jumpDelayed a).mem = s.mem := rfl
@[simp] theorem State.jumpDelayed_plat (a : Half) : (s.jumpDelayed a).plat = s.plat := rfl
@[simp] theorem State.jumpDelayed_bkpt (a : Half) : (s.jumpDelayed a).bkpt = s.bkpt := rfl
@[simp] theorem State.jumpDelayed_inputs (a : Half) : (s.jumpDelayed a).inputs = s.inputs := rfl
@[simp] theorem State.jumpDelayed_now (a : Half) : (s.jumpDelayed a).now = s.now := rfl
@[simp] theorem State.jumpDelayed_fresh (a : Half) : (s.jumpDelayed a).fresh = s.fresh := rfl

/-! `fifoMoved` -/

@[simp] theorem State.fifoMoved_cpc : s.fifoMoved.cpc = s.cpc := rfl
@[simp] theorem State.fifoMoved_pipe : s.fifoMoved.pipe = { s.pipe with fifoShifted := true } := rfl
@[simp] theorem State.fifoMoved_atc : s.fifoMoved.atc = s.atc := rfl
@[simp] theorem State.fifoMoved_mem : s.fifoMoved.mem = s.mem := rfl
@[simp] theorem State.fifoMoved_plat : s.fifoMoved.plat = s.plat := rfl
@[simp] theorem State.fifoMoved_bkpt : s.fifoMoved.bkpt = s.bkpt := rfl
@[simp] theorem State.fifoMoved_inputs : s.fifoMoved.inputs = s.inputs := rfl
@[simp] theorem State.fifoMoved_now : s.fifoMoved.now = s.now := rfl
@[simp] theorem State.fifoMoved_fresh : s.fifoMoved.fresh = s.fresh := rfl

/-! `setPrev` -/

@[simp] theorem State.setPrev_cpc (p : Option Prev) : (s.setPrev p).cpc = s.cpc := rfl
@[simp] theorem State.setPrev_pipe (p : Option Prev) : (s.setPrev p).pipe = { s.pipe with prev := p } := rfl
@[simp] theorem State.setPrev_atc (p : Option Prev) : (s.setPrev p).atc = s.atc := rfl
@[simp] theorem State.setPrev_mem (p : Option Prev) : (s.setPrev p).mem = s.mem := rfl
@[simp] theorem State.setPrev_plat (p : Option Prev) : (s.setPrev p).plat = s.plat := rfl
@[simp] theorem State.setPrev_bkpt (p : Option Prev) : (s.setPrev p).bkpt = s.bkpt := rfl
@[simp] theorem State.setPrev_inputs (p : Option Prev) : (s.setPrev p).inputs = s.inputs := rfl
@[simp] theorem State.setPrev_now (p : Option Prev) : (s.setPrev p).now = s.now := rfl
@[simp] theorem State.setPrev_fresh (p : Option Prev) : (s.setPrev p).fresh = s.fresh := rfl

/-! `pendFetch` -/

@[simp] theorem State.pendFetch_cpc (d : Option Fetched) : (s.pendFetch d).cpc = { s.cpc with fetch := some { data := d, age := 0 } } := rfl
@[simp] theorem State.pendFetch_pipe (d : Option Fetched) : (s.pendFetch d).pipe = s.pipe := rfl
@[simp] theorem State.pendFetch_atc (d : Option Fetched) : (s.pendFetch d).atc = s.atc := rfl
@[simp] theorem State.pendFetch_mem (d : Option Fetched) : (s.pendFetch d).mem = s.mem := rfl
@[simp] theorem State.pendFetch_plat (d : Option Fetched) : (s.pendFetch d).plat = s.plat := rfl
@[simp] theorem State.pendFetch_bkpt (d : Option Fetched) : (s.pendFetch d).bkpt = s.bkpt := rfl
@[simp] theorem State.pendFetch_inputs (d : Option Fetched) : (s.pendFetch d).inputs = s.inputs := rfl
@[simp] theorem State.pendFetch_now (d : Option Fetched) : (s.pendFetch d).now = s.now := rfl
@[simp] theorem State.pendFetch_fresh (d : Option Fetched) : (s.pendFetch d).fresh = s.fresh := rfl

/-! `post` -/

@[simp] theorem State.post_cpc (c : Half) : (s.post c).cpc = s.cpc := rfl
@[simp] theorem State.post_pipe (c : Half) : (s.post c).pipe = s.pipe := rfl
@[simp] theorem State.post_atc (c : Half) : (s.post c).atc = { s.atc with ita := s.atc.ita ||| s.unmasked c } := rfl
@[simp] theorem State.post_mem (c : Half) : (s.post c).mem = s.mem := rfl
@[simp] theorem State.post_plat (c : Half) : (s.post c).plat = s.plat := rfl
@[simp] theorem State.post_bkpt (c : Half) : (s.post c).bkpt = s.bkpt := rfl
@[simp] theorem State.post_inputs (c : Half) : (s.post c).inputs = s.inputs := rfl
@[simp] theorem State.post_now (c : Half) : (s.post c).now = s.now := rfl
@[simp] theorem State.post_fresh (c : Half) : (s.post c).fresh = s.fresh := rfl

/-! `atcReceived` -/

@[simp] theorem State.atcReceived_cpc : s.atcReceived.cpc = s.cpc := rfl
@[simp] theorem State.atcReceived_pipe : s.atcReceived.pipe = s.pipe := rfl
@[simp] theorem State.atcReceived_atc : s.atcReceived.atc = { s.atc with rrResetting := false } := rfl
@[simp] theorem State.atcReceived_mem : s.atcReceived.mem = s.mem := rfl
@[simp] theorem State.atcReceived_plat : s.atcReceived.plat = s.plat := rfl
@[simp] theorem State.atcReceived_bkpt : s.atcReceived.bkpt = s.bkpt := rfl
@[simp] theorem State.atcReceived_inputs : s.atcReceived.inputs = s.inputs := rfl
@[simp] theorem State.atcReceived_now : s.atcReceived.now = s.now := rfl
@[simp] theorem State.atcReceived_fresh : s.atcReceived.fresh = s.fresh := rfl

/-! `withReqsOnce` -/

@[simp] theorem State.withReqsOnce_cpc (b : Bool) : (s.withReqsOnce b).cpc = s.cpc := rfl
@[simp] theorem State.withReqsOnce_pipe (b : Bool) : (s.withReqsOnce b).pipe = s.pipe := rfl
@[simp] theorem State.withReqsOnce_mem (b : Bool) : (s.withReqsOnce b).mem = s.mem := rfl
@[simp] theorem State.withReqsOnce_plat (b : Bool) : (s.withReqsOnce b).plat = s.plat := rfl
@[simp] theorem State.withReqsOnce_bkpt (b : Bool) : (s.withReqsOnce b).bkpt = s.bkpt := rfl
@[simp] theorem State.withReqsOnce_inputs (b : Bool) : (s.withReqsOnce b).inputs = s.inputs := rfl
@[simp] theorem State.withReqsOnce_now (b : Bool) : (s.withReqsOnce b).now = s.now := rfl
@[simp] theorem State.withReqsOnce_fresh (b : Bool) : (s.withReqsOnce b).fresh = s.fresh := rfl
@[simp] theorem State.withReqsOnce_atc (b : Bool) : (s.withReqsOnce b).atc = { s.atc with reqsOnce := b } := rfl

/-! `setSeq` -/

@[simp] theorem State.setSeq_cpc (q : AtcSeq) (b : Bool) : (s.setSeq q b).cpc = s.cpc := rfl
@[simp] theorem State.setSeq_pipe (q : AtcSeq) (b : Bool) : (s.setSeq q b).pipe = s.pipe := rfl
@[simp] theorem State.setSeq_atc (q : AtcSeq) (b : Bool) : (s.setSeq q b).atc = { s.atc with seq := q, seqGoesOn := false, cpcInitiated := b } := rfl
@[simp] theorem State.setSeq_mem (q : AtcSeq) (b : Bool) : (s.setSeq q b).mem = s.mem := rfl
@[simp] theorem State.setSeq_plat (q : AtcSeq) (b : Bool) : (s.setSeq q b).plat = s.plat := rfl
@[simp] theorem State.setSeq_bkpt (q : AtcSeq) (b : Bool) : (s.setSeq q b).bkpt = s.bkpt := rfl
@[simp] theorem State.setSeq_inputs (q : AtcSeq) (b : Bool) : (s.setSeq q b).inputs = s.inputs := rfl
@[simp] theorem State.setSeq_now (q : AtcSeq) (b : Bool) : (s.setSeq q b).now = s.now := rfl
@[simp] theorem State.setSeq_fresh (q : AtcSeq) (b : Bool) : (s.setSeq q b).fresh = s.fresh := rfl

/-! `sequence` -/

@[simp] theorem State.sequence_cpc (g : Digit) (b : Bool) : (s.sequence g b).cpc = s.cpc := rfl
@[simp] theorem State.sequence_pipe (g : Digit) (b : Bool) : (s.sequence g b).pipe = s.pipe := rfl
@[simp] theorem State.sequence_mem (g : Digit) (b : Bool) : (s.sequence g b).mem = s.mem := rfl
@[simp] theorem State.sequence_plat (g : Digit) (b : Bool) : (s.sequence g b).plat = s.plat := rfl
@[simp] theorem State.sequence_bkpt (g : Digit) (b : Bool) : (s.sequence g b).bkpt = s.bkpt := rfl
@[simp] theorem State.sequence_inputs (g : Digit) (b : Bool) : (s.sequence g b).inputs = s.inputs := rfl
@[simp] theorem State.sequence_now (g : Digit) (b : Bool) : (s.sequence g b).now = s.now := rfl
@[simp] theorem State.sequence_fresh (g : Digit) (b : Bool) : (s.sequence g b).fresh = s.fresh := rfl
@[simp] theorem State.sequence_atc (g : Digit) (b : Bool) :
    (s.sequence g b).atc = { s.atc with seq := s.virtualSeq g, seqGoesOn := b, cpcInitiated := true } := rfl

/-! `presentNothing` -/

@[simp] theorem State.presentNothing_cpc : s.presentNothing.cpc = s.cpc := rfl
@[simp] theorem State.presentNothing_pipe : s.presentNothing.pipe = s.pipe := rfl
@[simp] theorem State.presentNothing_atc : s.presentNothing.atc = s.atc := rfl
@[simp] theorem State.presentNothing_mem : s.presentNothing.mem = s.mem := rfl
@[simp] theorem State.presentNothing_plat : s.presentNothing.plat = s.plat := rfl
@[simp] theorem State.presentNothing_inputs : s.presentNothing.inputs = s.inputs := rfl
@[simp] theorem State.presentNothing_now : s.presentNothing.now = s.now := rfl
@[simp] theorem State.presentNothing_fresh : s.presentNothing.fresh = s.fresh := rfl

/-! `loadRar` -/

@[simp] theorem State.loadRar_cpc (w : Word) : (s.loadRar w).cpc = s.cpc := rfl
@[simp] theorem State.loadRar_pipe (w : Word) : (s.loadRar w).pipe = s.pipe := rfl
@[simp] theorem State.loadRar_atc (w : Word) : (s.loadRar w).atc = { s.atc with rar := w, ddr := w } := rfl
@[simp] theorem State.loadRar_mem (w : Word) : (s.loadRar w).mem = s.mem := rfl
@[simp] theorem State.loadRar_plat (w : Word) : (s.loadRar w).plat = s.plat := rfl
@[simp] theorem State.loadRar_bkpt (w : Word) : (s.loadRar w).bkpt = s.bkpt := rfl
@[simp] theorem State.loadRar_inputs (w : Word) : (s.loadRar w).inputs = s.inputs := rfl
@[simp] theorem State.loadRar_now (w : Word) : (s.loadRar w).now = s.now := rfl
@[simp] theorem State.loadRar_fresh (w : Word) : (s.loadRar w).fresh = s.fresh := rfl

/-! `atcX1`, `ageAborted` -/

@[simp] theorem State.atcX1_cpc : s.atcX1.cpc = s.cpc := by unfold State.atcX1; split <;> [(dsimp only; split <;> rfl); rfl]
@[simp] theorem State.atcX1_pipe : s.atcX1.pipe = s.pipe := by unfold State.atcX1; split <;> [(dsimp only; split <;> rfl); rfl]
@[simp] theorem State.atcX1_mem : s.atcX1.mem = s.mem := by unfold State.atcX1; split <;> [(dsimp only; split <;> rfl); rfl]
@[simp] theorem State.atcX1_plat : s.atcX1.plat = s.plat := by unfold State.atcX1; split <;> [(dsimp only; split <;> rfl); rfl]
@[simp] theorem State.atcX1_bkpt : s.atcX1.bkpt = s.bkpt := by unfold State.atcX1; split <;> [(dsimp only; split <;> rfl); rfl]
@[simp] theorem State.atcX1_inputs : s.atcX1.inputs = s.inputs := by unfold State.atcX1; split <;> [(dsimp only; split <;> rfl); rfl]
@[simp] theorem State.atcX1_now : s.atcX1.now = s.now := by unfold State.atcX1; split <;> [(dsimp only; split <;> rfl); rfl]
@[simp] theorem State.atcX1_fresh : s.atcX1.fresh = s.fresh := by unfold State.atcX1; split <;> [(dsimp only; split <;> rfl); rfl]
@[simp] theorem State.ageAborted_pipe : s.ageAborted.pipe = s.pipe := by unfold State.ageAborted; split <;> rfl
@[simp] theorem State.ageAborted_atc : s.ageAborted.atc = s.atc := by unfold State.ageAborted; split <;> rfl
@[simp] theorem State.ageAborted_mem : s.ageAborted.mem = s.mem := by unfold State.ageAborted; split <;> rfl
@[simp] theorem State.ageAborted_plat : s.ageAborted.plat = s.plat := by unfold State.ageAborted; split <;> rfl
@[simp] theorem State.ageAborted_bkpt : s.ageAborted.bkpt = s.bkpt := by unfold State.ageAborted; split <;> rfl
@[simp] theorem State.ageAborted_inputs : s.ageAborted.inputs = s.inputs := by unfold State.ageAborted; split <;> rfl
@[simp] theorem State.ageAborted_now : s.ageAborted.now = s.now := by unfold State.ageAborted; split <;> rfl
@[simp] theorem State.ageAborted_fresh : s.ageAborted.fresh = s.fresh := by unfold State.ageAborted; split <;> rfl
@[simp] theorem State.indAt_atcX1 (n : Nat) : s.atcX1.indAt n = s.indAt n := by
  unfold State.indAt State.indicators State.ca1At; rw [State.atcX1_cpc]
@[simp] theorem State.indAt_ageAborted (n : Nat) : s.ageAborted.indAt n = s.indAt n := by unfold State.ageAborted; split <;> rfl

/-! `matchLater`, `deferMatch`, `writeMatch` -/

@[simp] theorem State.matchLater_cpc (b : Bool) : (s.matchLater b).cpc = s.cpc := rfl
@[simp] theorem State.matchLater_pipe (b : Bool) : (s.matchLater b).pipe = { s.pipe with lateMatch := some b } := rfl
@[simp] theorem State.matchLater_atc (b : Bool) : (s.matchLater b).atc = s.atc := rfl
@[simp] theorem State.matchLater_mem (b : Bool) : (s.matchLater b).mem = s.mem := rfl
@[simp] theorem State.matchLater_plat (b : Bool) : (s.matchLater b).plat = s.plat := rfl
@[simp] theorem State.matchLater_bkpt (b : Bool) : (s.matchLater b).bkpt = s.bkpt := rfl
@[simp] theorem State.matchLater_inputs (b : Bool) : (s.matchLater b).inputs = s.inputs := rfl
@[simp] theorem State.matchLater_now (b : Bool) : (s.matchLater b).now = s.now := rfl
@[simp] theorem State.matchLater_fresh (b : Bool) : (s.matchLater b).fresh = s.fresh := rfl
@[simp] theorem State.deferMatch_cpc : s.deferMatch.cpc = s.cpc := rfl
@[simp] theorem State.deferMatch_pipe : s.deferMatch.pipe = { s.pipe with lateMatch := s.pipe.dueMatch, dueMatch := none } := rfl
@[simp] theorem State.deferMatch_atc : s.deferMatch.atc = s.atc := rfl
@[simp] theorem State.deferMatch_mem : s.deferMatch.mem = s.mem := rfl
@[simp] theorem State.deferMatch_plat : s.deferMatch.plat = s.plat := rfl
@[simp] theorem State.deferMatch_bkpt : s.deferMatch.bkpt = s.bkpt := rfl
@[simp] theorem State.deferMatch_inputs : s.deferMatch.inputs = s.inputs := rfl
@[simp] theorem State.deferMatch_now : s.deferMatch.now = s.now := rfl
@[simp] theorem State.deferMatch_fresh : s.deferMatch.fresh = s.fresh := rfl
@[simp] theorem State.writeMatch_pipe : s.writeMatch.pipe = { s.pipe with dueMatch := none } := by
  unfold State.writeMatch
  split
  · rfl
  · next h => rw [← h]
@[simp] theorem State.writeMatch_atc : s.writeMatch.atc = s.atc := by unfold State.writeMatch; split <;> rfl
@[simp] theorem State.writeMatch_mem : s.writeMatch.mem = s.mem := by unfold State.writeMatch; split <;> rfl
@[simp] theorem State.writeMatch_plat : s.writeMatch.plat = s.plat := by unfold State.writeMatch; split <;> rfl
@[simp] theorem State.writeMatch_bkpt : s.writeMatch.bkpt = s.bkpt := by unfold State.writeMatch; split <;> rfl
@[simp] theorem State.writeMatch_inputs : s.writeMatch.inputs = s.inputs := by unfold State.writeMatch; split <;> rfl
@[simp] theorem State.writeMatch_now : s.writeMatch.now = s.now := by unfold State.writeMatch; split <;> rfl
@[simp] theorem State.writeMatch_fresh : s.writeMatch.fresh = s.fresh := by unfold State.writeMatch; split <;> rfl

/-- Of the CPC only an indicator may change. -/
theorem State.writeMatch_cpc : { s.writeMatch.cpc with ind := s.cpc.ind } = s.cpc := by
  unfold State.writeMatch; split <;> rfl

/-! Free values: only the counter moves -/

@[simp] theorem State.drawWord_cpc : s.drawWord.2.cpc = s.cpc := rfl
@[simp] theorem State.drawWord_pipe : s.drawWord.2.pipe = s.pipe := rfl
@[simp] theorem State.drawWord_atc : s.drawWord.2.atc = s.atc := rfl
@[simp] theorem State.drawWord_mem : s.drawWord.2.mem = s.mem := rfl
@[simp] theorem State.drawWord_plat : s.drawWord.2.plat = s.plat := rfl
@[simp] theorem State.drawWord_bkpt : s.drawWord.2.bkpt = s.bkpt := rfl
@[simp] theorem State.drawWord_inputs : s.drawWord.2.inputs = s.inputs := rfl
@[simp] theorem State.drawWord_now : s.drawWord.2.now = s.now := rfl
@[simp] theorem State.drawWord_fresh : s.drawWord.2.fresh = s.fresh + 1 := rfl
@[simp] theorem State.drawHalf_cpc : s.drawHalf.2.cpc = s.cpc := rfl
@[simp] theorem State.drawHalf_pipe : s.drawHalf.2.pipe = s.pipe := rfl
@[simp] theorem State.drawHalf_atc : s.drawHalf.2.atc = s.atc := rfl
@[simp] theorem State.drawHalf_mem : s.drawHalf.2.mem = s.mem := rfl
@[simp] theorem State.drawHalf_plat : s.drawHalf.2.plat = s.plat := rfl
@[simp] theorem State.drawHalf_bkpt : s.drawHalf.2.bkpt = s.bkpt := rfl
@[simp] theorem State.drawHalf_inputs : s.drawHalf.2.inputs = s.inputs := rfl
@[simp] theorem State.drawHalf_now : s.drawHalf.2.now = s.now := rfl
@[simp] theorem State.drawHalf_fresh : s.drawHalf.2.fresh = s.fresh + 1 := rfl
@[simp] theorem State.drawByte_cpc : s.drawByte.2.cpc = s.cpc := rfl
@[simp] theorem State.drawByte_pipe : s.drawByte.2.pipe = s.pipe := rfl
@[simp] theorem State.drawByte_atc : s.drawByte.2.atc = s.atc := rfl
@[simp] theorem State.drawByte_mem : s.drawByte.2.mem = s.mem := rfl
@[simp] theorem State.drawByte_plat : s.drawByte.2.plat = s.plat := rfl
@[simp] theorem State.drawByte_bkpt : s.drawByte.2.bkpt = s.bkpt := rfl
@[simp] theorem State.drawByte_inputs : s.drawByte.2.inputs = s.inputs := rfl
@[simp] theorem State.drawByte_now : s.drawByte.2.now = s.now := rfl
@[simp] theorem State.drawByte_fresh : s.drawByte.2.fresh = s.fresh + 1 := rfl
@[simp] theorem State.drawBit_cpc : s.drawBit.2.cpc = s.cpc := rfl
@[simp] theorem State.drawBit_pipe : s.drawBit.2.pipe = s.pipe := rfl
@[simp] theorem State.drawBit_atc : s.drawBit.2.atc = s.atc := rfl
@[simp] theorem State.drawBit_mem : s.drawBit.2.mem = s.mem := rfl
@[simp] theorem State.drawBit_plat : s.drawBit.2.plat = s.plat := rfl
@[simp] theorem State.drawBit_bkpt : s.drawBit.2.bkpt = s.bkpt := rfl
@[simp] theorem State.drawBit_inputs : s.drawBit.2.inputs = s.inputs := rfl
@[simp] theorem State.drawBit_now : s.drawBit.2.now = s.now := rfl
@[simp] theorem State.drawBit_fresh : s.drawBit.2.fresh = s.fresh + 1 := rfl

/-! ### Reading back -/

variable {s}

/-- A register read after a register write. -/
theorem State.rsu_setRsu (j k : RsuNum) (v : Word) : (s.setRsu j v).rsu k = if j = k then v else s.rsu k := by
  unfold State.rsu State.setRsu
  by_cases h : j = k
  · subst h; simp
  · have h' : j.toNat ≠ k.toNat := fun e => h (BitVec.eq_of_toNat_eq e)
    simp [h, h']

@[simp] theorem State.rsu_setRsu_same (k : RsuNum) (v : Word) : (s.setRsu k v).rsu k = v := by
  rw [State.rsu_setRsu, if_pos rfl]

/-- A register is read from the CPC alone. -/
theorem State.rsu_of_cpc {s t : State} (h : t.cpc.rsu = s.cpc.rsu) (k : RsuNum) : t.rsu k = s.rsu k := by
  unfold State.rsu; rw [h]

/-- A jump register read after a write. -/
theorem State.jr_setJr (i j : JrNum) (v : Half) : (s.setJr i v).jr j = if i = j then v else s.jr j := by
  unfold State.jr State.setJr
  by_cases h : i = j
  · subst h; simp
  · have h' : i.toNat ≠ j.toNat := fun e => h (BitVec.eq_of_toNat_eq e)
    simp [h, h']

/-- The indicators are read from `CA1` and `IND` alone. -/
theorem State.indAt_of_cpc {s t : State} (h : t.cpc.ind = s.cpc.ind) (h' : t.cpc.ca1 = s.cpc.ca1) (n : Nat) :
    t.indAt n = s.indAt n := by
  unfold State.indAt State.indicators State.ca1At; rw [h, h']

@[simp] theorem State.rsu_setJr (j : JrNum) (v : Half) (k : RsuNum) : (s.setJr j v).rsu k = s.rsu k := rfl
@[simp] theorem State.rsu_setCa1 (v : Byte) (k : RsuNum) : (s.setCa1 v).rsu k = s.rsu k := rfl
@[simp] theorem State.rsu_setInd (v : BitVec 7) (k : RsuNum) : (s.setInd v).rsu k = s.rsu k := rfl
@[simp] theorem State.rsu_setTally (v : Half) (k : RsuNum) : (s.setTally v).rsu k = s.rsu k := rfl
@[simp] theorem State.rsu_setSr (v : Half) (k : RsuNum) : (s.setSr v).rsu k = s.rsu k := rfl
@[simp] theorem State.rsu_setVia (v : Half) (k : RsuNum) : (s.setVia v).rsu k = s.rsu k := rfl
@[simp] theorem State.rsu_setM6wt (v : Digit) (k : RsuNum) : (s.setM6wt v).rsu k = s.rsu k := rfl
@[simp] theorem State.rsu_setFifo (e i c : Half) (k : RsuNum) : (s.setFifo e i c).rsu k = s.rsu k := rfl
@[simp] theorem State.rsu_setFifoRun (b : Bool) (k : RsuNum) : (s.setFifoRun b).rsu k = s.rsu k := rfl
@[simp] theorem State.rsu_setSur1 (v : Half) (k : RsuNum) : (s.setSur1 v).rsu k = s.rsu k := rfl
@[simp] theorem State.rsu_setSur2 (v : Half) (k : RsuNum) : (s.setSur2 v).rsu k = s.rsu k := rfl
@[simp] theorem State.rsu_setSur5 (v : Byte) (k : RsuNum) : (s.setSur5 v).rsu k = s.rsu k := rfl
@[simp] theorem State.rsu_setOptr1 (v : Byte) (k : RsuNum) : (s.setOptr1 v).rsu k = s.rsu k := rfl
@[simp] theorem State.rsu_setOptr2 (v : Byte) (k : RsuNum) : (s.setOptr2 v).rsu k = s.rsu k := rfl
@[simp] theorem State.rsu_setSptr (v : BitVec 5) (k : RsuNum) : (s.setSptr v).rsu k = s.rsu k := rfl
@[simp] theorem State.rsu_void (n : BitVec 2) (k : RsuNum) : (s.void n).rsu k = s.rsu k := rfl
@[simp] theorem State.rsu_jumpDelayed (a : Half) (k : RsuNum) : (s.jumpDelayed a).rsu k = s.rsu k := rfl
@[simp] theorem State.rsu_fifoMoved (k : RsuNum) : s.fifoMoved.rsu k = s.rsu k := rfl
@[simp] theorem State.rsu_setPrev (p : Option Prev) (k : RsuNum) : (s.setPrev p).rsu k = s.rsu k := rfl
@[simp] theorem State.rsu_pendFetch (d : Option Fetched) (k : RsuNum) : (s.pendFetch d).rsu k = s.rsu k := rfl
@[simp] theorem State.rsu_post (c : Half) (k : RsuNum) : (s.post c).rsu k = s.rsu k := rfl
@[simp] theorem State.rsu_atcReceived (k : RsuNum) : s.atcReceived.rsu k = s.rsu k := rfl
@[simp] theorem State.rsu_withReqsOnce (b : Bool) (k : RsuNum) : (s.withReqsOnce b).rsu k = s.rsu k := rfl
@[simp] theorem State.rsu_setSeq (q : AtcSeq) (b : Bool) (k : RsuNum) : (s.setSeq q b).rsu k = s.rsu k := rfl
@[simp] theorem State.rsu_loadRar (w : Word) (k : RsuNum) : (s.loadRar w).rsu k = s.rsu k := rfl
@[simp] theorem State.rsu_matchLater (b : Bool) (k : RsuNum) : (s.matchLater b).rsu k = s.rsu k := rfl
@[simp] theorem State.rsu_deferMatch (k : RsuNum) : s.deferMatch.rsu k = s.rsu k := rfl
@[simp] theorem State.rsu_writeMatch (k : RsuNum) : s.writeMatch.rsu k = s.rsu k := by unfold State.writeMatch; split <;> rfl
@[simp] theorem State.rsu_drawWord (k : RsuNum) : s.drawWord.2.rsu k = s.rsu k := rfl
@[simp] theorem State.rsu_drawHalf (k : RsuNum) : s.drawHalf.2.rsu k = s.rsu k := rfl
@[simp] theorem State.rsu_drawByte (k : RsuNum) : s.drawByte.2.rsu k = s.rsu k := rfl
@[simp] theorem State.rsu_drawBit (k : RsuNum) : s.drawBit.2.rsu k = s.rsu k := rfl

@[simp] theorem State.indAt_setRsu (k : RsuNum) (v : Word) (n : Nat) : (s.setRsu k v).indAt n = s.indAt n := rfl
@[simp] theorem State.indAt_setJr (j : JrNum) (v : Half) (n : Nat) : (s.setJr j v).indAt n = s.indAt n := rfl
@[simp] theorem State.indAt_setTally (v : Half) (n : Nat) : (s.setTally v).indAt n = s.indAt n := rfl
@[simp] theorem State.indAt_setSr (v : Half) (n : Nat) : (s.setSr v).indAt n = s.indAt n := rfl
@[simp] theorem State.indAt_setVia (v : Half) (n : Nat) : (s.setVia v).indAt n = s.indAt n := rfl
@[simp] theorem State.indAt_setM6wt (v : Digit) (n : Nat) : (s.setM6wt v).indAt n = s.indAt n := rfl
@[simp] theorem State.indAt_setFifo (e i c : Half) (n : Nat) : (s.setFifo e i c).indAt n = s.indAt n := rfl
@[simp] theorem State.indAt_setFifoRun (b : Bool) (n : Nat) : (s.setFifoRun b).indAt n = s.indAt n := rfl
@[simp] theorem State.indAt_setSur1 (v : Half) (n : Nat) : (s.setSur1 v).indAt n = s.indAt n := rfl
@[simp] theorem State.indAt_setSur2 (v : Half) (n : Nat) : (s.setSur2 v).indAt n = s.indAt n := rfl
@[simp] theorem State.indAt_setSur5 (v : Byte) (n : Nat) : (s.setSur5 v).indAt n = s.indAt n := rfl
@[simp] theorem State.indAt_setOptr1 (v : Byte) (n : Nat) : (s.setOptr1 v).indAt n = s.indAt n := rfl
@[simp] theorem State.indAt_setOptr2 (v : Byte) (n : Nat) : (s.setOptr2 v).indAt n = s.indAt n := rfl
@[simp] theorem State.indAt_setSptr (v : BitVec 5) (n : Nat) : (s.setSptr v).indAt n = s.indAt n := rfl
@[simp] theorem State.indAt_void (m : BitVec 2) (n : Nat) : (s.void m).indAt n = s.indAt n := rfl
@[simp] theorem State.indAt_jumpDelayed (a : Half) (n : Nat) : (s.jumpDelayed a).indAt n = s.indAt n := rfl
@[simp] theorem State.indAt_fifoMoved (n : Nat) : s.fifoMoved.indAt n = s.indAt n := rfl
@[simp] theorem State.indAt_setPrev (p : Option Prev) (n : Nat) : (s.setPrev p).indAt n = s.indAt n := rfl
@[simp] theorem State.indAt_pendFetch (d : Option Fetched) (n : Nat) : (s.pendFetch d).indAt n = s.indAt n := rfl
@[simp] theorem State.indAt_post (c : Half) (n : Nat) : (s.post c).indAt n = s.indAt n := rfl
@[simp] theorem State.indAt_atcReceived (n : Nat) : s.atcReceived.indAt n = s.indAt n := rfl
@[simp] theorem State.indAt_withReqsOnce (b : Bool) (n : Nat) : (s.withReqsOnce b).indAt n = s.indAt n := rfl
@[simp] theorem State.indAt_setSeq (q : AtcSeq) (b : Bool) (n : Nat) : (s.setSeq q b).indAt n = s.indAt n := rfl
@[simp] theorem State.indAt_loadRar (w : Word) (n : Nat) : (s.loadRar w).indAt n = s.indAt n := rfl
@[simp] theorem State.indAt_matchLater (b : Bool) (n : Nat) : (s.matchLater b).indAt n = s.indAt n := rfl
@[simp] theorem State.indAt_deferMatch (n : Nat) : s.deferMatch.indAt n = s.indAt n := rfl
@[simp] theorem State.indAt_drawWord (n : Nat) : s.drawWord.2.indAt n = s.indAt n := rfl
@[simp] theorem State.indAt_drawHalf (n : Nat) : s.drawHalf.2.indAt n = s.indAt n := rfl
@[simp] theorem State.indAt_drawByte (n : Nat) : s.drawByte.2.indAt n = s.indAt n := rfl
@[simp] theorem State.indAt_drawBit (n : Nat) : s.drawBit.2.indAt n = s.indAt n := rfl

end Sys2Proof.Machine
end

