-- ==== Sys2Proof/Laws/Ops.lean ====
section
/-! SUPPORT. What each shared operation does, once: bits, indicators, sums, bytes. -/

namespace Sys2Proof.Machine

/-! ### Bits -/

/-- A bit read after a bit write. -/
theorem bitAt_putBit {w : Nat} (x : BitVec w) (n m : Nat) (b : Bool) (hn : 1 ≤ n) (hw : n ≤ w) (hm : 1 ≤ m) :
    bitAt (putBit x n b) m = if n = m then b else bitAt x m := by
  unfold bitAt putBit
  have one : ∀ i, (1#w <<< (n - 1)).getLsbD i = decide (i = n - 1) := by
    intro i
    rw [BitVec.getLsbD_shiftLeft, BitVec.getLsbD_one]
    by_cases h : i = n - 1
    · subst h; simp; omega
    · simp [h]; omega
  have e : (n = m) ↔ (m - 1 = n - 1) := by omega
  rcases b with _ | _
  · simp only [Bool.false_eq_true, if_false, BitVec.getLsbD_and, BitVec.getLsbD_not, one]
    by_cases q : n = m
    · simp [q]
    · have q' : ¬ m - 1 = n - 1 := fun h => q (e.mpr h)
      simp only [q, q', if_false, decide_false, Bool.not_false, Bool.and_true]
      by_cases h : m - 1 < w
      · simp [h]
      · simp [h, BitVec.getLsbD_of_ge x (m - 1) (by omega)]
  · simp only [if_true, BitVec.getLsbD_or, one]
    by_cases q : n = m
    · simp [q]
    · have q' : ¬ m - 1 = n - 1 := fun h => q (e.mpr h)
      simp [q, q']

/-- An indicator read after `setIndAt`. -/
theorem State.indAt_setIndAt (s : State) (n m : Nat) (b : Bool) (hn : 1 ≤ n) (hn7 : n ≤ 7) (hm : 1 ≤ m) :
    (s.setIndAt n b).indAt m = if n = m then b else s.indAt m := by
  unfold State.setIndAt State.indAt State.indicators
  have h1 : (s.setInd (putBit s.cpc.ind n b)).ca1At 9 = s.ca1At 9 := rfl
  rw [h1]
  simp only [State.setInd_cpc]
  by_cases h7 : m ≤ 7
  · have key : ∀ (c : BitVec 1) (x : BitVec 7), bitAt (c ++ x : Byte) m = bitAt x m := by
      intro c x
      unfold bitAt
      rw [BitVec.getLsbD_append]
      simp; omega
    rw [key, key, bitAt_putBit _ _ _ _ hn hn7 hm]
  · have hne : n ≠ m := by omega
    rw [if_neg hne]
    have key : ∀ (c : BitVec 1) (x : BitVec 7), bitAt (c ++ x : Byte) m = c.getLsbD (m - 1 - 7) := by
      intro c x
      unfold bitAt
      rw [BitVec.getLsbD_append]
      simp; omega
    rw [key, key]

/-- What a held cycle does to the pipeline, memory and the indicators: a C.C. MATCH that was due is due in the next cycle, only I7 may
change (10 R49; 70 R796). -/
theorem State.held_spec (s : State) :
    s.held.pipe = { s.pipe with lateMatch := s.pipe.dueMatch, dueMatch := none } ∧ s.held.mem = s.mem ∧ KeepsInd s s.held [7] := by
  have w : s.ageAborted.deferMatch.writeMatch = s.ageAborted.deferMatch := rfl
  unfold State.held State.x1
  rw [w]
  split
  · have p : ∀ t : State, (t.setIndAt 7 false).pipe = t.pipe ∧ (t.setIndAt 7 false).mem = t.mem := fun _ => ⟨rfl, rfl⟩
    refine ⟨by rw [(p _).1]; simp, by rw [(p _).2]; simp, fun n h1 _ h3 => ?_⟩
    rw [State.indAt_setIndAt _ 7 n false (by omega) (by omega) h1, if_neg (by simp at h3; omega)]
    simp
  · exact ⟨by simp, by simp, fun n _ _ _ => by simp⟩

/-- An indicator read after a late C.C. MATCH was written: I6 takes it, the others stay (46 R637). -/
theorem State.indAt_writeMatch (s : State) (n : Nat) (hn : 1 ≤ n) :
    s.writeMatch.indAt n = if n = 6 then s.pipe.dueMatch.getD (s.indAt 6) else s.indAt n := by
  unfold State.writeMatch
  split
  · next b h =>
    refine (State.indAt_setIndAt s 6 n b (by omega) (by omega) hn).trans ?_
    rw [h]
    by_cases q : n = 6
    · rw [if_pos q, if_pos q.symm]; rfl
    · rw [if_neg q, if_neg (Ne.symm q)]
  · next h =>
    rw [h]
    split
    · next q => rw [q]; rfl
    · rfl

/-- The indicators after `setOrder`. -/
theorem State.indAt_setOrder (s : State) (a b c : Bool) (m : Nat) (hm : 1 ≤ m) :
    (s.setOrder a b c).indAt m = if m = 1 then a else if m = 2 then b else if m = 3 then c else s.indAt m := by
  unfold State.setOrder State.indAt State.indicators
  have h1 : ∀ v, (s.setInd v).ca1At 9 = s.ca1At 9 := fun _ => rfl
  rw [h1]
  simp only [State.setInd_cpc]
  unfold bitAt
  obtain rfl | rfl | rfl | h : m = 1 ∨ m = 2 ∨ m = 3 ∨ 4 ≤ m := by omega
  · simp only [BitVec.getLsbD_append, bit1]; simp
  · simp only [BitVec.getLsbD_append, bit1]; simp
  · simp only [BitVec.getLsbD_append, bit1]; simp
  · have e1 : m ≠ 1 := by omega
    have e2 : m ≠ 2 := by omega
    have e3 : m ≠ 3 := by omega
    simp only [e1, e2, e3, if_false, BitVec.getLsbD_append]
    by_cases h7 : m - 1 < 7
    · have f1 : ¬ (m - 1 < 1) := by omega
      have f2 : ¬ (m - 1 - 1 < 1) := by omega
      have f3 : ¬ (m - 1 - 1 - 1 < 1) := by omega
      have f4 : m - 1 - 1 - 1 - 1 < 4 := by omega
      have f5 : 3 + (m - 1 - 1 - 1 - 1) = m - 1 := by omega
      simp [h7, f1, f2, f3, f4, f5]
    · simp [h7]

/-- I1, I2 and I3 after `nzp` are the sign of the value. -/
theorem State.signOf_nzp {w : Nat} (s : State) (r : BitVec w) : SignOf (s.nzp r) r.toInt := by
  unfold SignOf State.nzp
  rw [State.indAt_setOrder _ _ _ _ _ (by omega), State.indAt_setOrder _ _ _ _ _ (by omega),
    State.indAt_setOrder _ _ _ _ _ (by omega)]
  have hz : r = 0#w ↔ r.toInt = 0 := by rw [← BitVec.toInt_inj]; simp
  have hm := @BitVec.msb_eq_toInt w r
  refine ⟨by rw [hm]; simp, by simp [hz], ?_⟩
  simp [hm, hz]
  omega

/-- An indicator other than I1 to I3 after `nzp`. -/
theorem State.indAt_nzp {w : Nat} (s : State) (r : BitVec w) (n : Nat) (hn : 4 ≤ n) : (s.nzp r).indAt n = s.indAt n := by
  unfold State.nzp
  rw [State.indAt_setOrder _ _ _ _ _ (by omega)]
  simp [show n ≠ 1 by omega, show n ≠ 2 by omega, show n ≠ 3 by omega]

/-! ### Sums -/

/-- The value of a sum. -/
theorem addC_value {w : Nat} (a b : BitVec w) (c : Bool) :
    (addC a b c).value = BitVec.ofNat w (a.toNat + b.toNat + c.toNat) := rfl

/-- The carry of a sum. -/
theorem addC_carry {w : Nat} (a b : BitVec w) (c : Bool) :
    (addC a b c).carry = true ↔ 2 ^ w ≤ a.toNat + b.toNat + c.toNat := by simp [addC]

/-- The overflow of a word sum: the exact signed sum does not fit. -/
theorem addC_overflow (a b : Word) (c : Bool) : ((addC a b c).overflow = true ↔
    a.toInt + b.toInt + c.toNat < -2 ^ 31 ∨ 2 ^ 31 ≤ a.toInt + b.toInt + c.toNat) := by
  have ha := a.isLt
  have hb := b.isLt
  have hc : c.toNat ≤ 1 := by cases c <;> simp
  simp only [addC, BitVec.toInt_eq_toNat_cond, bne_iff_ne, ne_eq, decide_eq_decide]
  norm_num
  omega

/-- The value of a difference, `c` being 1 for no borrow. -/
theorem subC_value {w : Nat} (a b : BitVec w) (c : Bool) :
    (subC a b c).value = BitVec.ofInt w (a.toInt - b.toInt - (1 - c.toNat : Nat)) := by
  have e : BitVec.ofInt w (a.toInt - b.toInt - (1 - c.toNat : Nat)) =
      a - b - BitVec.ofNat w (1 - c.toNat) := by
    rw [← BitVec.toInt_inj]
    simp only [BitVec.toInt_ofInt, BitVec.toInt_sub, BitVec.toInt_ofNat', Int.bmod_sub_bmod, Int.sub_bmod_bmod]
  rw [e, subC, addC_value]
  have h : BitVec.ofNat w (a.toNat + (~~~b).toNat + c.toNat) = a + ~~~b + BitVec.ofNat w c.toNat := by
    apply BitVec.eq_of_toNat_eq
    simp [BitVec.toNat_add]
  rw [h, BitVec.not_eq_neg_add]
  cases c
  · simp [BitVec.sub_eq_add_neg, BitVec.add_assoc]
  · simp [BitVec.sub_eq_add_neg, BitVec.add_assoc]

/-- The carry of a difference: no borrow. -/
theorem subC_carry {w : Nat} (a b : BitVec w) (c : Bool) :
    (subC a b c).carry = true ↔ b.toNat + (1 - c.toNat) ≤ a.toNat := by
  have := b.isLt
  rw [subC, addC_carry, BitVec.toNat_not]
  cases c <;> simp <;> omega

/-- The overflow of a word difference. -/
theorem subC_overflow (a b : Word) (c : Bool) : ((subC a b c).overflow = true ↔
    a.toInt - b.toInt - (1 - c.toNat : Nat) < -2 ^ 31 ∨ 2 ^ 31 ≤ a.toInt - b.toInt - (1 - c.toNat : Nat)) := by
  rw [subC, addC_overflow, BitVec.toInt_not]
  have h : ((2 ^ 32 - 1 - b.toNat : Int).bmod (2 ^ 32)) = -1 - b.toInt := by
    have := b.isLt
    rw [BitVec.toInt_eq_toNat_bmod]
    simp only [Int.bmod]
    omega
  rw [h]
  cases c <;> simp <;> omega

/-! ### Bytes -/

/-- A bit of a byte of a word. -/
theorem byteOf_getLsbD (w : Word) (b : BitVec 2) (i : Nat) (hi : i < 8) :
    (byteOf w b).getLsbD i = w.getLsbD (8 * (3 - b.toNat) + i) := by
  have hb : b = 0 ∨ b = 1 ∨ b = 2 ∨ b = 3 := by revert b; decide
  rcases hb with rfl | rfl | rfl | rfl <;> simp [byteOf, hi]

/-- A bit of a word with a byte replaced. -/
theorem putByte_getLsbD (w : Word) (b : BitVec 2) (v : Byte) (i : Nat) (hi : i < 32) :
    (putByte w b v).getLsbD i = if i / 8 = 3 - b.toNat then v.getLsbD (i % 8) else w.getLsbD i := by
  have hb : b = 0 ∨ b = 1 ∨ b = 2 ∨ b = 3 := by revert b; decide
  rcases hb with rfl | rfl | rfl | rfl
  · show (v ++ w.extractLsb' 0 24).getLsbD i = _
    rw [BitVec.getLsbD_append, BitVec.getLsbD_extractLsb']
    interval_cases i <;> simp
  · show (w.extractLsb' 24 8 ++ v ++ w.extractLsb' 0 16).getLsbD i = _
    rw [BitVec.getLsbD_append, BitVec.getLsbD_append, BitVec.getLsbD_extractLsb', BitVec.getLsbD_extractLsb']
    interval_cases i <;> simp
  · show (w.extractLsb' 16 16 ++ v ++ w.extractLsb' 0 8).getLsbD i = _
    rw [BitVec.getLsbD_append, BitVec.getLsbD_append, BitVec.getLsbD_extractLsb', BitVec.getLsbD_extractLsb']
    interval_cases i <;> simp
  · show (w.extractLsb' 8 24 ++ v).getLsbD i = _
    rw [BitVec.getLsbD_append, BitVec.getLsbD_extractLsb']
    interval_cases i <;> simp

/-- A byte read after a byte write. -/
theorem byteOf_putByte (w : Word) (b c : BitVec 2) (v : Byte) :
    byteOf (putByte w b v) c = if c = b then v else byteOf w c := by
  apply BitVec.eq_of_getLsbD_eq; intro i hi
  have hc := c.isLt
  have hb := b.isLt
  rw [byteOf_getLsbD _ _ _ hi, putByte_getLsbD _ _ _ _ (by omega)]
  by_cases h : c = b
  · subst h; rw [if_pos (by omega), if_pos rfl]; congr 1; omega
  · have : c.toNat ≠ b.toNat := fun q => h (BitVec.eq_of_toNat_eq q)
    rw [if_neg (by omega), if_neg h, byteOf_getLsbD _ _ _ hi]

/-- A byte address is its register and its byte number. -/
theorem byteAddr_ext (a b : ByteAddr) (h1 : byteReg a = byteReg b) (h2 : byteNum a = byteNum b) : a = b := by
  revert a b; decide

/-- A byte operand read after a write of one. -/
theorem State.byteOp_setByteOp (s : State) (a b : ByteAddr) (v : Byte) :
    (s.setByteOp a v).byteOp b = if b = a then v else s.byteOp b := by
  unfold State.byteOp State.setByteOp
  rw [State.rsu_setRsu]
  by_cases hr : byteReg a = byteReg b
  · rw [if_pos hr, byteOf_putByte, hr]
    by_cases hn : byteNum b = byteNum a
    · rw [if_pos hn, if_pos (byteAddr_ext b a hr.symm hn)]
    · rw [if_neg hn, if_neg (fun h => hn (by rw [h]))]
  · rw [if_neg hr, if_neg (fun h => hr (by rw [h]))]

/-! ### Halves and digits as numbers -/

/-- A vector after another, as a number. -/
theorem toNat_join {n m : Nat} (a : BitVec n) (b : BitVec m) : (a ++ b).toNat = a.toNat * 2 ^ m + b.toNat := by
  rw [BitVec.toNat_append, ← Nat.shiftLeft_add_eq_or_of_lt b.isLt, Nat.shiftLeft_eq]

/-- A part of a vector as a number. -/
theorem toNat_part {w : Nat} (x : BitVec w) (i n : Nat) : (x.extractLsb' i n).toNat = x.toNat / 2 ^ i % 2 ^ n := by
  rw [BitVec.extractLsb'_toNat, Nat.shiftRight_eq_div_pow]

/-- A word with its right half replaced. -/
theorem toNat_withRight (d : Word) (h : Half) : (withRight d h).toNat = d.toNat / 2 ^ 16 * 2 ^ 16 + h.toNat := by
  have := d.isLt
  rw [show withRight d h = d.extractLsb' 16 16 ++ h from rfl, toNat_join, toNat_part]
  omega

/-- A word with its left half replaced. -/
theorem toNat_withLeft (d : Word) (h : Half) : (withLeft d h).toNat = h.toNat * 2 ^ 16 + d.toNat % 2 ^ 16 := by
  rw [show withLeft d h = h ++ d.extractLsb' 0 16 from rfl, toNat_join, toNat_part]
  omega

/-- The left half. -/
theorem toNat_leftHalf (d : Word) : (leftHalf d).toNat = d.toNat / 2 ^ 16 := by
  have := d.isLt
  rw [leftHalf, toNat_part]
  omega

/-- The right half. -/
theorem toNat_rightHalf (d : Word) : (rightHalf d).toNat = d.toNat % 2 ^ 16 := by
  rw [rightHalf, toNat_part]
  omega

/-- The left digit. -/
theorem toNat_leftDigit (b : Byte) : (leftDigit b).toNat = b.toNat / 16 := by
  have := b.isLt
  rw [leftDigit, toNat_part]
  omega

/-- The right digit. -/
theorem toNat_rightDigit (b : Byte) : (rightDigit b).toNat = b.toNat % 16 := by
  rw [rightDigit, toNat_part]
  omega

/-! ### Frames -/

/-- A word sum changes its register and I1 to I5. -/
theorem State.frame_putSum (s : State) (j : RsuNum) (r : Sum 32) : Frame s (s.putSum j r) [j] [1, 2, 3, 4, 5] := by
  refine ⟨?_, ?_, fun _ => rfl, rfl, rfl, rfl, rfl, rfl, rfl, rfl, rfl⟩
  · intro k hk
    show (s.setRsu j r.value).rsu k = _
    rw [State.rsu_setRsu]; simp at hk; simp [Ne.symm hk]
  · intro n h1 h8 hn
    simp at hn
    unfold State.putSum State.wordFlags
    rw [State.indAt_nzp _ _ _ (by omega), State.indAt_setIndAt _ _ _ _ (by omega) (by omega) (by omega),
      State.indAt_setIndAt _ _ _ _ (by omega) (by omega) (by omega), if_neg (by omega), if_neg (by omega)]
    rfl

/-- A word sum: its register, its carry, its overflow, its sign. -/
theorem State.putSum_spec (s : State) (j : RsuNum) (r : Sum 32) :
    (s.putSum j r).rsu j = r.value ∧ (s.putSum j r).indAt 4 = r.carry ∧ (s.putSum j r).indAt 5 = r.overflow ∧
      SignOf (s.putSum j r) r.value.toInt := by
  refine ⟨?_, ?_, ?_, State.signOf_nzp _ _⟩
  · show (s.setRsu j r.value).rsu j = _
    rw [State.rsu_setRsu, if_pos rfl]
  · unfold State.putSum State.wordFlags
    rw [State.indAt_nzp _ _ _ (by omega), State.indAt_setIndAt _ _ _ _ (by omega) (by omega) (by omega),
      State.indAt_setIndAt _ _ _ _ (by omega) (by omega) (by omega)]
    simp
  · unfold State.putSum State.wordFlags
    rw [State.indAt_nzp _ _ _ (by omega), State.indAt_setIndAt _ _ _ _ (by omega) (by omega) (by omega)]
    simp

/-- When a TW clears the MARS6 write tags: into MARS6, always or, by the parameter, from another register. -/
theorem State.twClears_iff (s : State) (j k : RsuNum) :
    s.twClears j k = true ↔ (k = 12#4 ∨ k = 13#4) ∧ (s.plat.twTags = .always ∨ s.plat.twTags = .moved ∧ j ≠ k) := by
  unfold State.twClears
  cases s.plat.twTags <;> simp

end Sys2Proof.Machine
end

