-- ==== Sys2Proof/Laws/Frames.lean ====
section
/-! SUPPORT. The frames of the shared operations, and how frames compose. -/

namespace Sys2Proof.Machine

/-- Nothing changed. -/
theorem Frame.refl (s : State) : Frame s s [] [] :=
  ⟨fun _ _ => rfl, fun _ _ _ _ => rfl, fun _ => rfl, rfl, rfl, rfl, rfl, rfl, rfl, rfl, rfl⟩

/-- A frame holds for every larger set of registers and indicators. -/
theorem Frame.mono {s t : State} {ks ks' : List RsuNum} {ns ns' : List Nat} (h : Frame s t ks ns) (hk : ∀ k ∈ ks, k ∈ ks')
    (hn : ∀ n ∈ ns, n ∈ ns') : Frame s t ks' ns' :=
  ⟨fun k q => h.1 k (fun m => q (hk k m)), fun n a b q => h.2.1 n a b (fun m => q (hn n m)), h.2.2.1, h.2.2.2⟩

/-- Two frames in a row. -/
theorem Frame.trans {s t u : State} {ks ks' : List RsuNum} {ns ns' : List Nat} (h : Frame s t ks ns) (g : Frame t u ks' ns') :
    Frame s u (ks ++ ks') (ns ++ ns') := by
  obtain ⟨h1, h2, h3, h4, h5, h6, h7, h8, h9, h10, h11⟩ := h
  obtain ⟨g1, g2, g3, g4, g5, g6, g7, g8, g9, g10, g11⟩ := g
  refine ⟨?_, ?_, ?_, ?_, g5.trans h5, g6.trans h6, g7.trans h7, g8.trans h8, g9.trans h9, g10.trans h10, g11.trans h11⟩
  · intro k hk
    rw [List.mem_append, not_or] at hk
    rw [g1 k hk.2, h1 k hk.1]
  · intro n a b hn
    rw [List.mem_append, not_or] at hn
    rw [g2 n a b hn.2, h2 n a b hn.1]
  · intro a; rw [g3 a, h3 a]
  · rw [← h4, ← g4]

/-- A register write. -/
theorem State.frame_setRsu (s : State) (k : RsuNum) (v : Word) : Frame s (s.setRsu k v) [k] [] := by
  refine ⟨?_, fun _ _ _ _ => rfl, fun _ => rfl, rfl, rfl, rfl, rfl, rfl, rfl, rfl, rfl⟩
  intro j hj
  rw [State.rsu_setRsu, if_neg (fun h => hj (by simp [h]))]

/-- A byte write. -/
theorem State.frame_setByteOp (s : State) (a : ByteAddr) (v : Byte) : Frame s (s.setByteOp a v) [byteReg a] [] :=
  s.frame_setRsu _ _

/-- A byte write leaves the other bytes. -/
theorem State.keeps_setByteOp (s : State) (a : ByteAddr) (v : Byte) : KeepsOtherBytes s (s.setByteOp a v) a := by
  intro b hb
  rw [State.byteOp_setByteOp, if_neg hb]

/-- An indicator write. -/
theorem State.frame_setIndAt (s : State) (n : Nat) (b : Bool) (h1 : 1 ≤ n) (h7 : n ≤ 7) : Frame s (s.setIndAt n b) [] [n] := by
  refine ⟨fun _ _ => rfl, ?_, fun _ => rfl, rfl, rfl, rfl, rfl, rfl, rfl, rfl, rfl⟩
  intro m hm _ hn
  rw [State.indAt_setIndAt _ _ _ _ h1 h7 hm, if_neg (fun h => hn (by simp [h]))]

/-- The match bit on entering a SETNA: I6 alone, reset by the parameter. -/
theorem State.enterSetna_spec (s : State) :
    Frame s s.enterSetna [] [6] ∧ (s.enterSetna.indAt 6 = true ↔ s.indAt 6 = true ∧ s.plat.setnaResets = false) := by
  unfold State.enterSetna
  split
  · next h => exact ⟨s.frame_setIndAt 6 false (by omega) (by omega), by rw [State.indAt_setIndAt _ _ _ _] <;> simp [h]⟩
  · next h => exact ⟨(Frame.refl s).mono (by simp) (by simp), by simp [h]⟩

/-- I1 to I3. -/
theorem State.frame_setOrder (s : State) (a b c : Bool) : Frame s (s.setOrder a b c) [] [1, 2, 3] := by
  refine ⟨fun _ _ => rfl, ?_, fun _ => rfl, rfl, rfl, rfl, rfl, rfl, rfl, rfl, rfl⟩
  intro m hm _ hn
  simp at hn
  rw [State.indAt_setOrder _ _ _ _ _ hm]
  simp [hn]

/-- I1 to I3 from a value. -/
theorem State.frame_nzp {w : Nat} (s : State) (r : BitVec w) : Frame s (s.nzp r) [] [1, 2, 3] := s.frame_setOrder _ _ _

/-- The digit and zone checks. -/
theorem State.frame_bcdCheck (s : State) (both : Bool) (v : Byte) : Frame s (s.bcdCheck both v) [] [5, 6] :=
  (s.frame_setIndAt 5 _ (by omega) (by omega)).trans (State.frame_setIndAt _ 6 _ (by omega) (by omega))

/-- A byte result with its indicators. -/
theorem State.frame_putByteSum (s : State) (j : ByteAddr) (r : Byte) (c : Bool) :
    Frame s (s.putByteSum j r c) [byteReg j] [1, 2, 3, 4] :=
  (((s.frame_setByteOp j r).trans (State.frame_setIndAt _ 4 c (by omega) (by omega))).trans (State.frame_nzp _ r)).mono
    (by simp) (by simp)

/-- A byte result: its byte, its carry, its sign, the other bytes. -/
theorem State.putByteSum_spec (s : State) (j : ByteAddr) (r : Byte) (c : Bool) :
    (s.putByteSum j r c).byteOp j = r ∧ (s.putByteSum j r c).indAt 4 = c ∧ SignOf (s.putByteSum j r c) r.toInt ∧
      KeepsOtherBytes s (s.putByteSum j r c) j := by
  refine ⟨?_, ?_, State.signOf_nzp _ _, s.keeps_setByteOp j r⟩
  · show (s.setByteOp j r).byteOp j = r
    rw [State.byteOp_setByteOp, if_pos rfl]
  · unfold State.putByteSum State.byteFlags
    rw [State.indAt_nzp _ _ _ (by omega), State.indAt_setIndAt _ _ _ _ (by omega) (by omega) (by omega), if_pos rfl]

end Sys2Proof.Machine
end

