-- ==== Sys2Proof/Laws/Memory.lean ====
section
/-! SUPPORT. Sparse tables and memory: what is read after a write, and that every write keeps the canonical form. -/

namespace Sys2Proof.Machine

/-! ### Tables -/

section Tables

variable {α : Type} [DecidableEq α] (d : α)

/-- An address below every entry holds the default. -/
theorem Table.get_below (a lo : Nat) (t : List (Nat × α)) (h : Table.canonicalFrom d lo t = true) (ha : a < lo) :
    Table.get d a t = d := by
  induction t generalizing lo with
  | nil => rfl
  | cons e t ih =>
    obtain ⟨b, x⟩ := e
    simp only [Table.canonicalFrom, Bool.and_eq_true, decide_eq_true_eq] at h
    rw [Table.get, if_neg (by omega)]
    exact ih (b + 1) h.2 (by omega)

/-- A canonical table is canonical from every lower address. -/
theorem Table.canonicalFrom_mono (lo lo' : Nat) (t : List (Nat × α)) (h : Table.canonicalFrom d lo t = true) (hl : lo' ≤ lo) :
    Table.canonicalFrom d lo' t = true := by
  cases t with
  | nil => rfl
  | cons e t =>
    obtain ⟨b, x⟩ := e
    simp only [Table.canonicalFrom, Bool.and_eq_true, decide_eq_true_eq] at h ⊢
    exact ⟨⟨by omega, h.1.2⟩, h.2⟩

/-- A value put in front of a canonical table of higher addresses. -/
theorem Table.canonicalFrom_put (lo a : Nat) (v : α) (t : List (Nat × α)) (h : Table.canonicalFrom d (a + 1) t = true)
    (hl : lo ≤ a) : Table.canonicalFrom d lo (Table.put d a v t) = true := by
  unfold Table.put
  split
  · exact Table.canonicalFrom_mono d _ _ _ h (by omega)
  · next hv => simp only [Table.canonicalFrom, Bool.and_eq_true, decide_eq_true_eq]; exact ⟨⟨hl, hv⟩, h⟩

/-- A write keeps the canonical form. -/
theorem Table.canonicalFrom_set (lo a : Nat) (v : α) (t : List (Nat × α)) (h : Table.canonicalFrom d lo t = true)
    (hl : lo ≤ a) : Table.canonicalFrom d lo (Table.set d a v t) = true := by
  induction t generalizing lo with
  | nil => exact Table.canonicalFrom_put d lo a v [] rfl hl
  | cons e t ih =>
    obtain ⟨b, x⟩ := e
    have h' := h
    simp only [Table.canonicalFrom, Bool.and_eq_true, decide_eq_true_eq] at h
    unfold Table.set
    split
    · next hab =>
      exact Table.canonicalFrom_put d lo a v _ (by
        simp only [Table.canonicalFrom, Bool.and_eq_true, decide_eq_true_eq]; exact ⟨⟨by omega, h.1.2⟩, h.2⟩) hl
    · split
      · next hab => subst hab; exact Table.canonicalFrom_put d lo a v t h.2 hl
      · next hlt hne =>
        simp only [Table.canonicalFrom, Bool.and_eq_true, decide_eq_true_eq]
        exact ⟨h.1, ih (b + 1) h.2 (by omega)⟩

/-- A write keeps the canonical form of a whole table. -/
theorem Table.canonical_set (a : Nat) (v : α) (t : List (Nat × α)) (h : Table.canonical d t = true) :
    Table.canonical d (Table.set d a v t) = true := Table.canonicalFrom_set d 0 a v t h (Nat.zero_le a)

/-- What is read where a value was put. -/
theorem Table.get_put (a c : Nat) (v : α) (t : List (Nat × α)) (h : Table.get d a t = d) :
    Table.get d c (Table.put d a v t) = if c = a then v else Table.get d c t := by
  unfold Table.put
  by_cases hv : v = d
  · rw [if_pos hv]
    split
    · next hc => rw [hc, h, hv]
    · rfl
  · rw [if_neg hv, Table.get]

/-- What is read after a write. -/
theorem Table.get_setFrom (lo a c : Nat) (v : α) (t : List (Nat × α)) (h : Table.canonicalFrom d lo t = true) :
    Table.get d c (Table.set d a v t) = if c = a then v else Table.get d c t := by
  induction t generalizing lo with
  | nil => exact Table.get_put d a c v [] rfl
  | cons e t ih =>
    obtain ⟨b, x⟩ := e
    have h' := h
    simp only [Table.canonicalFrom, Bool.and_eq_true, decide_eq_true_eq] at h
    unfold Table.set
    split
    · next hab =>
      apply Table.get_put
      rw [Table.get, if_neg (by omega)]
      exact Table.get_below d a (b + 1) t h.2 (by omega)
    · split
      · next hab =>
        subst hab
        rw [Table.get_put d a c v t (Table.get_below d a (a + 1) t h.2 (by omega)), Table.get]
        split <;> rfl
      · next hlt hne =>
        rw [Table.get, Table.get, ih (b + 1) h.2]
        by_cases hc : c = b
        · rw [if_pos hc, if_pos hc, if_neg (by omega)]
        · rw [if_neg hc, if_neg hc]

/-- What is read after a write of a canonical table. -/
theorem Table.get_set (a c : Nat) (v : α) (t : List (Nat × α)) (h : Table.canonical d t = true) :
    Table.get d c (Table.set d a v t) = if c = a then v else Table.get d c t := Table.get_setFrom d 0 a c v t h

/-- A write below every entry of a table, canonical or not, or of the default above: what is read elsewhere stays. -/
theorem Table.get_set_ne (a c : Nat) (v : α) (t : List (Nat × α)) (hc : c ≠ a) :
    Table.get d c (Table.set d a v t) = Table.get d c t := by
  have put : ∀ t : List (Nat × α), Table.get d c (Table.put d a v t) = Table.get d c t := by
    intro t; unfold Table.put; split
    · rfl
    · rw [Table.get, if_neg hc]
  induction t with
  | nil => exact put []
  | cons e t ih =>
    obtain ⟨b, x⟩ := e
    unfold Table.set
    split
    · exact put _
    · split
      · next hab => subst hab; rw [put, Table.get, if_neg hc]
      · rw [Table.get, Table.get, ih]

end Tables

/-! ### Memory -/

/-- The two tables of a memory in canonical form. -/
theorem Memory.wf_iff (m : Memory) : m.wf = true ↔
    Table.canonical Memory.unwritten m.bytes = true ∧ Table.canonical 0#7 m.err = true := by
  unfold Memory.wf; rw [Bool.and_eq_true]

/-- A byte write keeps the canonical form. -/
theorem Memory.wf_setByte (m : Memory) (a : Nat) (v : Byte) (h : m.wf = true) : (m.setByte a v).wf = true := by
  rw [Memory.wf_iff] at h ⊢
  exact ⟨Table.canonical_set _ a v m.bytes h.1, h.2⟩

/-- A word write keeps the canonical form. -/
theorem Memory.wf_setWord (m : Memory) (wa : Nat) (d : Word) (h : m.wf = true) : (m.setWord wa d).wf = true :=
  Memory.wf_setByte _ _ _ (Memory.wf_setByte _ _ _ (Memory.wf_setByte _ _ _ (Memory.wf_setByte _ _ _ h)))

/-- A write of check bits keeps the canonical form. -/
theorem Memory.wf_setErr (m : Memory) (wa : Nat) (e : BitVec 7) (h : m.wf = true) : (m.setErr wa e).wf = true := by
  rw [Memory.wf_iff] at h ⊢
  exact ⟨h.1, Table.canonical_set _ wa e m.err h.2⟩

/-- A byte after a byte write. -/
theorem Memory.byte_setByte (m : Memory) (a c : Nat) (v : Byte) (h : m.wf = true) :
    (m.setByte a v).byte c = if c = a then v else m.byte c :=
  Table.get_set _ a c v m.bytes ((Memory.wf_iff m).mp h).1

/-- Another byte after a byte write, in any memory. -/
theorem Memory.byte_setByte_ne (m : Memory) (a c : Nat) (v : Byte) (h : c ≠ a) : (m.setByte a v).byte c = m.byte c :=
  Table.get_set_ne _ a c v m.bytes h

/-- The bytes outside a word write, in any memory. -/
theorem Memory.byte_setWord_ne (m : Memory) (wa c : Nat) (d : Word) (h : c < 4 * wa ∨ 4 * wa + 4 ≤ c) :
    (m.setWord wa d).byte c = m.byte c := by
  unfold Memory.setWord
  rw [Memory.byte_setByte_ne _ _ _ _ (by omega), Memory.byte_setByte_ne _ _ _ _ (by omega),
    Memory.byte_setByte_ne _ _ _ _ (by omega), Memory.byte_setByte_ne _ _ _ _ (by omega)]

/-- The bytes of a word write. -/
theorem Memory.byte_setWord (m : Memory) (wa : Nat) (d : Word) (b : BitVec 2) (h : m.wf = true) :
    (m.setWord wa d).byte (4 * wa + b.toNat) = byteOf d b := by
  have hb : b = 0 ∨ b = 1 ∨ b = 2 ∨ b = 3 := by revert b; decide
  have h1 := Memory.wf_setByte m (4 * wa) (d.extractLsb' 24 8) h
  have h2 := Memory.wf_setByte _ (4 * wa + 1) (d.extractLsb' 16 8) h1
  have h3 := Memory.wf_setByte _ (4 * wa + 2) (d.extractLsb' 8 8) h2
  unfold Memory.setWord
  rw [Memory.byte_setByte _ _ _ _ h3, Memory.byte_setByte _ _ _ _ h2, Memory.byte_setByte _ _ _ _ h1,
    Memory.byte_setByte _ _ _ _ h]
  rcases hb with rfl | rfl | rfl | rfl <;> simp [byteOf]

/-- A byte of a word read. -/
theorem Memory.byteOf_word (m : Memory) (wa : Nat) (b : BitVec 2) : byteOf (m.word wa) b = m.byte (4 * wa + b.toNat) := by
  have part : ∀ (a b c d : Byte), byteOf (a ++ b ++ c ++ d : Word) 0 = a ∧ byteOf (a ++ b ++ c ++ d : Word) 1 = b ∧
      byteOf (a ++ b ++ c ++ d : Word) 2 = c ∧ byteOf (a ++ b ++ c ++ d : Word) 3 = d := by
    intro a b c d
    have e : ∀ (k : BitVec 2) (x : Byte), (∀ i, i < 8 → (a ++ b ++ c ++ d : Word).getLsbD (8 * (3 - k.toNat) + i) = x.getLsbD i) →
        byteOf (a ++ b ++ c ++ d : Word) k = x := by
      intro k x h
      apply BitVec.eq_of_getLsbD_eq
      intro i hi
      rw [byteOf_getLsbD _ _ _ hi]; exact h i hi
    refine ⟨e 0 a ?_, e 1 b ?_, e 2 c ?_, e 3 d ?_⟩ <;>
    · intro i hi
      rw [BitVec.getLsbD_append, BitVec.getLsbD_append, BitVec.getLsbD_append]
      interval_cases i <;> rfl
  have hb : b = 0 ∨ b = 1 ∨ b = 2 ∨ b = 3 := by revert b; decide
  obtain ⟨p0, p1, p2, p3⟩ := part (m.byte (4 * wa)) (m.byte (4 * wa + 1)) (m.byte (4 * wa + 2)) (m.byte (4 * wa + 3))
  unfold Memory.word
  rcases hb with rfl | rfl | rfl | rfl
  · exact p0
  · exact p1
  · exact p2
  · exact p3

@[simp] theorem Memory.byte_setErr (m : Memory) (wa c : Nat) (e : BitVec 7) : (m.setErr wa e).byte c = m.byte c := rfl
@[simp] theorem Memory.errAt_setByte (m : Memory) (a wa : Nat) (v : Byte) : (m.setByte a v).errAt wa = m.errAt wa := rfl
@[simp] theorem Memory.errAt_setWord (m : Memory) (wa wb : Nat) (d : Word) : (m.setWord wa d).errAt wb = m.errAt wb := rfl

/-- The check bits after a write of them. -/
theorem Memory.errAt_setErr (m : Memory) (wa wb : Nat) (e : BitVec 7) (h : m.wf = true) :
    (m.setErr wa e).errAt wb = if wb = wa then e else m.errAt wb :=
  Table.get_set _ wa wb e m.err ((Memory.wf_iff m).mp h).2

/-- Memory after reset is in canonical form. -/
theorem State.reset_mem_wf : State.reset.mem.wf = true := by decide

/-! ### The error check and the memory operations -/

/-- A word whose check bits are those of its data is read as it is. -/
theorem eccDecode_zero (d : Word) : eccDecode d 0#7 = (d, .ok) := by
  unfold eccDecode
  rw [if_pos (by decide)]

/-- Bytes of a merge. -/
theorem byteOf_mergeBytes (tags : Digit) (old new : Word) (b : BitVec 2) :
    byteOf (mergeBytes tags old new) b = if bitAt tags (4 - b.toNat) then byteOf new b else byteOf old b := by
  have hb : b = 0 ∨ b = 1 ∨ b = 2 ∨ b = 3 := by revert b; decide
  apply BitVec.eq_of_getLsbD_eq
  intro i hi
  rw [byteOf_getLsbD _ _ _ hi, apply_ite (fun x : Byte => x.getLsbD i), byteOf_getLsbD _ _ _ hi, byteOf_getLsbD _ _ _ hi]
  unfold mergeBytes
  rw [BitVec.getLsbD_append, BitVec.getLsbD_append, BitVec.getLsbD_append]
  rcases hb with rfl | rfl | rfl | rfl
  · by_cases h : bitAt tags 4 = true <;> interval_cases i <;> simp [h]
  · by_cases h : bitAt tags 3 = true <;> interval_cases i <;> simp [h]
  · by_cases h : bitAt tags 2 = true <;> interval_cases i <;> simp [h]
  · by_cases h : bitAt tags 1 = true <;> interval_cases i <;> simp [h]

/-- The error check reads: memory and the CPC stay. -/
theorem State.eccRead_keeps (s : State) (l : Bool) (pa : Nat) : (s.eccRead l pa).2.mem = s.mem ∧
    (s.eccRead l pa).2.cpc = s.cpc ∧ (s.eccRead l pa).2.pipe = s.pipe ∧ (s.eccRead l pa).2.plat = s.plat := by
  unfold State.eccRead
  simp only []
  split <;> exact ⟨rfl, rfl, rfl, rfl⟩

/-- A word without an error is read as it is. -/
theorem State.eccRead_readable (s : State) (l : Bool) (pa : Nat) (h : s.Readable pa) :
    (s.eccRead l pa).1 = (s.mem.word pa, .ok) := by
  show s.checked pa = _
  unfold State.checked
  rw [h, eccDecode_zero, ite_self]

/-- A word written keeps the canonical form. -/
theorem State.wf_writeWord (s : State) (pa : Nat) (d : Word) (h : s.mem.wf = true) : (s.writeWord pa d).mem.wf = true := by
  unfold State.writeWord
  split <;> exact Memory.wf_setErr _ _ _ (Memory.wf_setWord _ _ _ h)

/-- A word written changes the bytes of that word. -/
theorem State.byte_writeWord (s : State) (pa c : Nat) (d : Word) : (s.writeWord pa d).mem.byte c = (s.mem.setWord pa d).byte c := by
  unfold State.writeWord
  split <;> rfl

/-- A word fetched leaves memory. -/
theorem State.fetchWord_mem (s : State) (t : Target) : (s.fetchWord t).2.mem = s.mem := by
  unfold State.fetchWord
  split
  · simp only []
    split
    · split <;> rfl
    · rfl
  · have h := (s.eccRead_keeps true (s.physical t)).1
    simp only []
    split
    · exact h
    · split <;> exact h

/-- A real fetch leaves memory. -/
theorem State.realFetch_mem (s : State) (b : Bool) (w : Word) (t : Target) : (s.realFetch b w t).2.mem = s.mem := by
  unfold State.realFetch
  rw [State.fetchWord_mem]
  simp only []
  split <;> rfl

/-- The outputs for an error leave memory. -/
theorem State.signalError_mem (s : State) (e : EccStatus) : (s.signalError e).mem = s.mem := rfl

/-- The memory error trap leaves memory. -/
theorem State.memoryErrorTrap_mem (s : State) : s.memoryErrorTrap.mem = s.mem := by
  unfold State.memoryErrorTrap; split <;> rfl

/-- A fetched word going by leaves memory. -/
theorem State.dropFetch_mem (s : State) : s.dropFetch.mem = s.mem := by
  unfold State.dropFetch
  split
  · simp only []; split
    · exact State.memoryErrorTrap_mem s
    · rfl
  · rfl

/-- A store keeps the canonical form. -/
theorem State.wf_storeWord (s : State) (t : Target) (tags : Digit) (d : Word) (h : s.mem.wf = true) :
    (s.storeWord t tags d).mem.wf = true := by
  have base : ∀ u : State, u.mem = s.mem → (u.storeWord t tags d).mem.wf = true := by
    intro u hu
    unfold State.storeWord
    simp only []
    generalize hv : (if u.plat.atcPresent then { u with atc := { u.atc with pd := d } } else u : State) = v
    have hm : v.mem.wf = true := by rw [← hv]; split <;> (rw [show (_ : State).mem = s.mem from hu]; exact h)
    split
    · exact hm
    · split
      · exact State.wf_writeWord _ _ _ hm
      · generalize hr : v.eccRead v.partialReadLoads (v.physical t) = r
        have k : r.2.mem = v.mem := by rw [← hr]; exact (v.eccRead_keeps _ _).1
        obtain ⟨⟨old, e⟩, w⟩ := r
        simp only [] at k ⊢
        split
        · split <;> (show w.mem.wf = true; rw [k]; exact hm)
        · apply State.wf_writeWord
          split <;> (show w.mem.wf = true; rw [k]; exact hm)
  exact base s rfl

/-- A real store keeps the canonical form. -/
theorem State.wf_realStore (s : State) (b : Bool) (t : Target) (tags : Digit) (d : Word) (h : s.mem.wf = true) :
    (s.realStore b t tags d).mem.wf = true := State.wf_storeWord _ t tags d h

/-- A store of the CPC keeps the canonical form. -/
theorem State.wf_cpcRealStore (s : State) (t : Target) (tags : Digit) (d : Word) (h : s.mem.wf = true) :
    (s.cpcRealStore t tags d).mem.wf = true :=
  State.wf_realStore _ true t tags d (by rw [State.dropFetch_mem]; exact h)

/-- A refresh: the word with its check bits as corrected, or the memory as it was. -/
theorem State.refreshWord_mem (s : State) : s.refreshWord.mem =
    if (s.checked s.refreshPlace).2 = .uncorrectable then s.mem
    else (s.mem.setWord s.refreshPlace (s.checked s.refreshPlace).1).setErr s.refreshPlace 0#7 := by
  have h := (s.startRefresh.eccRead_keeps true s.refreshPlace).1
  have c : (s.startRefresh.eccRead true s.refreshPlace).1 = s.checked s.refreshPlace := rfl
  unfold State.refreshWord
  simp only [c]
  split
  · exact h
  · show ((s.startRefresh.eccRead true s.refreshPlace).2.mem.setWord _ _).setErr _ _ = _
    rw [h]; rfl

/-- A refresh keeps the canonical form. -/
theorem State.wf_refreshWord (s : State) (h : s.mem.wf = true) : s.refreshWord.mem.wf = true := by
  rw [State.refreshWord_mem]
  split
  · exact h
  · exact Memory.wf_setErr _ _ _ (Memory.wf_setWord _ _ _ h)

/-- A refresh with an ATC: the ATC but for the Syndrome Register, MD and the error outputs; the CPC and the pipeline. -/
theorem State.refreshWord_atc (s : State) (hp : s.plat.atcPresent = true) : s.refreshWord.cpc = s.cpc ∧ s.refreshWord.pipe = s.pipe ∧
    s.refreshWord.atc = { s.startRefresh.atc with
      syn := s.refreshWord.atc.syn
      synEr := s.refreshWord.atc.synEr
      md := (s.checked s.refreshPlace).1
      memErr := s.atc.memErr || (s.checked s.refreshPlace).2 != .ok
      mdee := s.atc.mdee || (s.checked s.refreshPlace).2 == .uncorrectable } := by
  have hp' : s.startRefresh.plat.atcPresent = true := hp
  have c : (s.startRefresh.eccRead true s.refreshPlace).1 = s.checked s.refreshPlace := rfl
  unfold State.refreshWord
  simp only [c]
  have k := s.startRefresh.eccRead_keeps true s.refreshPlace
  have a : (s.startRefresh.eccRead true s.refreshPlace).2.atc = { s.startRefresh.atc with
      syn := (s.startRefresh.eccRead true s.refreshPlace).2.atc.syn
      synEr := (s.startRefresh.eccRead true s.refreshPlace).2.atc.synEr } := by
    unfold State.eccRead
    simp only [hp', if_true]
  generalize (s.startRefresh.eccRead true s.refreshPlace).2 = w at k a
  split <;> (refine ⟨k.2.1, k.2.2.1, ?_⟩; unfold State.signalError; simp only []; rw [a]; rfl)

/-- The word of a fetch within the memory: as stored or corrected; some word, if it cannot be corrected (20 R209). -/
theorem State.fetchWord_word (s : State) (t : Target) (hb : s.beyond t = false) :
    (s.fetchWord t).1.status = (s.checked (s.physical t)).2 ∧
      (¬s.Lost (s.physical t) → (s.fetchWord t).1.word = (s.checked (s.physical t)).1) := by
  unfold State.fetchWord State.Lost
  rw [hb, if_neg (by decide)]
  have c : (s.eccRead true (s.physical t)).1 = s.checked (s.physical t) := rfl
  rw [← c]
  obtain ⟨⟨d, e⟩, u⟩ := s.eccRead true (s.physical t)
  simp only []
  split
  · next h => exact ⟨rfl, fun q => absurd h q⟩
  · exact ⟨rfl, fun _ => rfl⟩

/-- The bytes of a word written, and its check bits: those of the word, or the locked Syndrome Register (20 R208). -/
theorem State.writeWord_spec (s : State) (pa : Nat) (d : Word) (h : s.mem.wf = true) :
    (∀ b : BitVec 2, (s.writeWord pa d).mem.byte (4 * pa + b.toNat) = byteOf d b) ∧
      (∀ n, n < 4 * pa ∨ 4 * pa + 4 ≤ n → (s.writeWord pa d).mem.byte n = s.mem.byte n) ∧
      (s.writeWord pa d).mem.errAt pa =
        if s.plat.atcPresent = true ∧ s.atc.synLock = true then s.atc.syn ^^^ checkBits d else 0#7 := by
  refine ⟨fun b => ?_, fun n q => ?_, ?_⟩
  · rw [State.byte_writeWord, Memory.byte_setWord _ _ _ _ h]
  · rw [State.byte_writeWord, Memory.byte_setWord_ne _ _ _ _ q]
  · have k := Memory.wf_setWord s.mem pa d h
    unfold State.writeWord
    by_cases q : s.plat.atcPresent = true ∧ s.atc.synLock = true
    · rw [if_pos (by simp [q.1, q.2]), if_pos q]
      exact (Memory.errAt_setErr _ _ _ _ k).trans (if_pos rfl)
    · rw [if_neg (by simpa using q), if_neg q]
      exact (Memory.errAt_setErr _ _ _ _ k).trans (if_pos rfl)

/-- The word that four bytes are. -/
theorem Memory.word_of_bytes (m : Memory) (pa : Nat) (d : Word) (h : ∀ b : BitVec 2, m.byte (4 * pa + b.toNat) = byteOf d b) :
    m.word pa = d := by
  apply BitVec.eq_of_getLsbD_eq
  intro i hi
  have e : ∀ x : Word, x.getLsbD i = (byteOf x (BitVec.ofNat 2 (3 - i / 8))).getLsbD (i % 8) := by
    intro x
    rw [byteOf_getLsbD _ _ _ (by omega)]
    congr 1
    simp only [BitVec.toNat_ofNat]
    omega
  rw [e, e, Memory.byteOf_word, h]

/-- The Syndrome Register after a word is written: as it was while locked, else the check bits generated (20 R208; 11 R131). -/
theorem State.writeWord_syn (s : State) (pa : Nat) (d : Word) (hp : s.plat.atcPresent = true) :
    (s.writeWord pa d).atc.syn = (if s.atc.synLock = true then s.atc.syn else checkBits d) ∧
      (s.writeWord pa d).atc.synEr = s.atc.synEr := by
  unfold State.writeWord
  by_cases q : s.atc.synLock = true <;> simp [hp, q]

/-- The Syndrome Register and its error bit after the error check (20 R209). -/
theorem State.eccRead_syn (s : State) (l : Bool) (pa : Nat) (hp : s.plat.atcPresent = true) :
    (s.eccRead l pa).2.atc.syn = (if l = true then s.checkAt pa else s.atc.syn) ∧
      (s.eccRead l pa).2.atc.synEr = decide ((s.checked pa).2 ≠ .ok) := by
  unfold State.eccRead
  simp only [hp, if_true]
  refine ⟨rfl, ?_⟩
  cases (s.checked pa).2 <;> rfl

/-- A store within the memory (20 R203, R209). -/
theorem State.storeWord_stores (s : State) (t : Target) (tags : Digit) (d : Word) (h : s.mem.wf = true)
    (hb : s.beyond t = false) : StoresAt s (s.storeWord t tags d) (s.physical t) tags d := by
  unfold State.storeWord
  simp only []
  generalize hv : (if s.plat.atcPresent then { s with atc := { s.atc with pd := d } } else s : State) = v
  have vm : v.mem = s.mem := by rw [← hv]; split <;> rfl
  have vp : v.plat = s.plat := by rw [← hv]; split <;> rfl
  have vl : v.atc.synLock = s.atc.synLock := by rw [← hv]; split <;> rfl
  have vs : v.atc.syn = s.atc.syn := by rw [← hv]; split <;> rfl
  have ve : v.atc.synEr = s.atc.synEr := by rw [← hv]; split <;> rfl
  have vc : ∀ pa, v.checked pa = s.checked pa := by intro pa; rw [← hv]; split <;> rfl
  have vb : v.beyond t = false := by rw [← hb]; unfold State.beyond State.memWords; rw [vp]
  have vy : v.physical t = s.physical t := by unfold State.physical State.memWords; rw [vp]
  rw [vb, if_neg (by decide), vy]
  clear hv vb
  generalize hpa : s.physical t = pa at *
  have fin : ∀ (u : State) (w : Word), u.mem = s.mem → u.plat = s.plat → u.atc.synLock = s.atc.synLock →
      (s.plat.atcPresent = true → (s.atc.synLock = true → u.atc.syn = s.lockedCheck pa tags) ∧
        u.atc.synEr = if tags = 0xF#4 then s.atc.synEr else decide ((s.checked pa).2 ≠ .ok)) →
      (∀ b : BitVec 2, byteOf w b = if bitAt tags (4 - b.toNat) then byteOf d b else byteOf (s.checked pa).1 b) →
      (tags = 0xF#4 ∨ ¬s.Lost pa) → StoresAt s (u.writeWord pa w) pa tags d := by
    intro u w um up ul us hw ok
    obtain ⟨w1, w2, w3⟩ := u.writeWord_spec pa w (by rw [um]; exact h)
    have ww := Memory.word_of_bytes _ _ _ w1
    refine ⟨fun _ => ⟨fun b => (w1 b).trans (hw b), fun r b q => ?_, ?_⟩, fun q l => ?_, fun p => ⟨?_, ?_⟩, fun n q => ?_⟩
    · rw [w1, hw, q, if_neg (by decide)]
      rw [show s.checked pa = (s.mem.word pa, .ok) from s.eccRead_readable true pa r]
      exact Memory.byteOf_word _ _ _
    · rw [w3, ww, up, ul]
      split
      · next z => rw [(us z.1).1 z.2]
      · rfl
    · exact absurd l (ok.resolve_left q)
    · rw [(u.writeWord_syn pa w (by rw [up]; exact p)).1, ul, ww]
      split
      · next z => exact (us p).1 z
      · rw [if_neg fun q => ok.elim q.1 fun k => k q.2]
    · rw [(u.writeWord_syn pa w (by rw [up]; exact p)).2, (us p).2]
    · rw [w2 n q, um]
  by_cases ht : tags = 0xF#4
  · rw [if_pos ht]
    refine fin v d vm vp vl (fun _ => ⟨fun _ => ?_, ?_⟩) (fun b => ?_) (.inl ht)
    · unfold State.lockedCheck; rw [if_pos (.inl ht), vs]
    · rw [if_pos ht, ve]
    have hbb : b = 0 ∨ b = 1 ∨ b = 2 ∨ b = 3 := by revert b; decide
    subst ht
    rcases hbb with rfl | rfl | rfl | rfl <;> simp [bitAt]
  · rw [if_neg ht]
    have rd : (v.eccRead v.partialReadLoads pa).1 = s.checked pa := vc pa
    obtain ⟨r1, r2, r3, r4⟩ := v.eccRead_keeps v.partialReadLoads pa
    have rl : (v.eccRead v.partialReadLoads pa).2.atc.synLock = s.atc.synLock := by
      rw [← vl]; unfold State.eccRead; simp only []; split <;> rfl
    have rs : s.plat.atcPresent = true →
        ((v.eccRead v.partialReadLoads pa).2.atc.syn =
          if s.atc.synLock = true then s.lockedCheck pa tags else s.checkAt pa) ∧
        (v.eccRead v.partialReadLoads pa).2.atc.synEr = decide ((s.checked pa).2 ≠ .ok) := by
      intro p
      obtain ⟨a, b⟩ := v.eccRead_syn v.partialReadLoads pa (by rw [vp]; exact p)
      refine ⟨a.trans ?_, b.trans (by rw [vc])⟩
      unfold State.partialReadLoads State.lockedCheck State.checkAt
      rw [vp, vl, vm, vs]
      cases s.plat.lockedReadLoads <;> cases s.atc.synLock <;> simp [ht]
    generalize v.eccRead v.partialReadLoads pa = r at *
    obtain ⟨⟨old, e⟩, u⟩ := r
    simp only [] at rd r1 r2 r3 r4 rl rs ⊢
    generalize hu : (if u.plat.atcPresent = true then { u with atc := { u.atc with md := old } } else u : State).signalError e = x
    have xm : x.mem = s.mem := by rw [← hu, State.signalError_mem]; split <;> exact r1.trans vm
    have xp : x.plat = s.plat := by rw [← hu]; unfold State.signalError; simp only []; split <;> exact r4.trans vp
    have xl : x.atc.synLock = s.atc.synLock := by rw [← hu]; unfold State.signalError; simp only []; split <;> exact rl
    have xs : x.atc.syn = u.atc.syn ∧ x.atc.synEr = u.atc.synEr := by
      rw [← hu]; unfold State.signalError; simp only []; split <;> exact ⟨rfl, rfl⟩
    split
    · next he =>
      have l : s.Lost pa := by unfold State.Lost; rw [← rd]; exact he
      refine ⟨fun q => absurd l (q.resolve_left ht), fun _ _ => xm, fun p => ⟨?_, ?_⟩, fun n _ => by rw [xm]⟩
      · rw [xs.1, (rs p).1, if_pos (show tags ≠ 0xF#4 ∧ s.Lost pa from ⟨ht, l⟩)]
      · rw [xs.2, (rs p).2, if_neg ht]
    · next he =>
      have xy : x.physical t = pa := by rw [← hpa]; unfold State.physical State.memWords; rw [xp]
      rw [xy]
      refine fin x _ xm xp xl (fun p => ⟨fun z => ?_, ?_⟩) (fun b => ?_)
        (.inr fun l => he (by unfold State.Lost at l; rw [← rd] at l; exact l))
      · rw [xs.1, (rs p).1, if_pos z]
      · rw [xs.2, (rs p).2, if_neg ht]
      · rw [byteOf_mergeBytes, ← rd]

end Sys2Proof.Machine
end

