-- ==== Sys2Proof/Laws/Devices.lean ====
section
/-! SUPPORT. What a register message and a message of another device can do, and the step from the state its cycle starts in. -/

namespace Sys2Proof.Machine

/-! ### Register messages -/

/-- Nothing but the ATC and the free-value counter has changed. -/
def OnlyAtc (s t : State) : Prop :=
  t.cpc = s.cpc ∧ t.pipe = s.pipe ∧ t.mem = s.mem ∧ t.plat = s.plat ∧ t.bkpt = s.bkpt ∧ t.inputs = s.inputs ∧ t.now = s.now

/-- What differs in the ATC and the counter only. -/
theorem OnlyAtc.of (s : State) (a : Atc) (f : Nat) : OnlyAtc s { s with atc := a, fresh := f } :=
  ⟨rfl, rfl, rfl, rfl, rfl, rfl, rfl⟩

/-- `BIN` loaded changes the ATC. -/
theorem State.loadBin_onlyAtc (s : State) (d : Word) : OnlyAtc s (s.loadBin d) := by
  unfold State.loadBin
  simp only []
  split
  · exact .of s _ _
  · split <;> exact .of s _ _

/-- A write message to `BIN` changes the ATC. -/
theorem State.writeBin_onlyAtc (s : State) (d : Word) : OnlyAtc s (s.writeBin d) := by
  unfold State.writeBin
  split
  · exact .of s _ s.fresh
  · exact s.loadBin_onlyAtc d

/-- WVP changes the ATC. -/
theorem State.writeVirtualPage_onlyAtc (s t : State) (d : Word) (h : s.writeVirtualPage d = .ok t) : OnlyAtc s t := by
  unfold State.writeVirtualPage at h
  split at h
  · cases h
  · cases h; exact .of s _ _

/-- WSPF changes the ATC. -/
theorem State.writePageFrame_onlyAtc (s t : State) (d : Word) (h : s.writePageFrame d = .ok t) : OnlyAtc s t := by
  unfold State.writePageFrame at h
  split at h
  · cases h
  · split at h
    · cases h
    · cases h; exact .of s _ _

/-- PS and PSM change the ATC. -/
theorem State.purge_onlyAtc (s t : State) (m : BitVec 22) (d : Word) (h : s.purge m d = .ok t) : OnlyAtc s t := by
  unfold State.purge at h
  split at h
  · cases h
  · cases h; exact .of s _ _

/-- TVA changes the ATC. -/
theorem State.translateOnly_onlyAtc (s t : State) (d : Word) (h : s.translateOnly d = .ok t) : OnlyAtc s t := by
  unfold State.translateOnly at h
  split at h
  · cases h
  · split at h
    · cases h
    · simp only [] at h
      split at h
      · cases h; exact .of s _ _
      · cases h; exact .of s _ _
      · cases h

/-- ESPF changes the ATC. -/
theorem State.espf_onlyAtc (s t : State) (h : s.espf = .ok t) : OnlyAtc s t := by
  unfold State.espf at h
  split at h
  · cases h
  · cases h; exact .of s _ _

/-- A write message to a register of the ATC changes nothing else (11 R122). -/
theorem State.eruWrite_onlyAtc (s t : State) (n : BitVec 7) (d : Word) (h : s.eruWrite n d = .ok t) : OnlyAtc s t := by
  unfold State.eruWrite at h
  simp only [] at h
  split at h
  · cases h; exact .of s _ _
  split at h
  case h_7 =>
    cases h
    split
    · exact s.atcReceived.writeBin_onlyAtc d
    · exact s.atcReceived.loadBin_onlyAtc d
  case h_11 => exact s.writeVirtualPage_onlyAtc t d h
  case h_12 => exact s.writePageFrame_onlyAtc t d h
  case h_13 => exact s.purge_onlyAtc t _ d h
  case h_15 => exact s.purge_onlyAtc t _ d h
  case h_16 => exact s.translateOnly_onlyAtc t d h
  all_goals (cases h; exact .of s _ _)

/-- A read message to a register of the ATC changes nothing else (11 R122). -/
theorem State.eruRead_onlyAtc (s t : State) (n : BitVec 7) (w : Word) (h : s.eruRead n = .ok (w, t)) : OnlyAtc s t := by
  unfold State.eruRead at h
  simp only [] at h
  split at h
  · cases h; exact .of s _ _
  split at h
  case h_9 =>
    split at h
    · cases h
    · next u q =>
      have k := s.espf_onlyAtc u q
      cases h
      exact k
  case h_14 =>
    split at h
    · cases h; exact .of s _ _
    · cases h
  all_goals (cases h; exact .of s _ _)

/-! ### Messages of other devices -/

/-- What a message of another device can do: change the ATC, memory, which stays in canonical form, and the enable and trap bits of the
breakpoint hardware; the CPC, the pipeline, the platform, the Breakpoint RAM and the inputs stay (11 R122; 22 R296). -/
def DeviceActs (s t : State) : Prop :=
  t.cpc = s.cpc ∧ t.pipe = s.pipe ∧ t.plat = s.plat ∧ { t.bkpt with enable := s.bkpt.enable, trap := s.bkpt.trap } = s.bkpt ∧
    t.inputs = s.inputs ∧ t.now = s.now ∧ (s.mem.wf = true → t.mem.wf = true)

/-- A message that changes only the ATC. -/
theorem OnlyAtc.acts {s t : State} (h : OnlyAtc s t) : DeviceActs s t := by
  obtain ⟨h1, h2, h3, h4, h5, h6, h7⟩ := h
  exact ⟨h1, h2, h4, by rw [h5], h6, h7, fun w => by rw [h3]; exact w⟩

/-- No message. -/
theorem DeviceActs.refl (s : State) : DeviceActs s s := ⟨rfl, rfl, rfl, rfl, rfl, rfl, id⟩

/-- Two messages in a row. -/
theorem DeviceActs.trans {s t u : State} (h : DeviceActs s t) (g : DeviceActs t u) : DeviceActs s u := by
  obtain ⟨h1, h2, h3, h4, h5, h6, h7⟩ := h
  obtain ⟨g1, g2, g3, g4, g5, g6, g7⟩ := g
  refine ⟨g1.trans h1, g2.trans h2, g3.trans h3, ?_, g5.trans h5, g6.trans h6, fun w => g7 (h7 w)⟩
  rw [← h4, ← g4]

/-- The error check changes the ATC. -/
theorem State.eccRead_onlyAtc (s : State) (l : Bool) (pa : Nat) : OnlyAtc s (s.eccRead l pa).2 := by
  unfold State.eccRead
  simp only []
  split
  · exact .of s _ s.fresh
  · exact .of s s.atc s.fresh

/-- A word read by a message: nothing but the ATC and the free-value counter changes. -/
theorem State.fetchWord_onlyAtc (s : State) (t : Target) : OnlyAtc s (s.fetchWord t).2 := by
  have h := s.eccRead_onlyAtc true (s.physical t)
  unfold State.fetchWord
  split
  · simp only []
    split
    · split <;> exact .of s _ _
    · exact .of s s.atc _
  · simp only []
    split
    · exact h
    · split <;> exact h

/-- The fetch of another device changes the ATC. -/
theorem State.deviceFetch_onlyAtc (s : State) (a : Word) : OnlyAtc s (s.deviceFetch a) := by
  unfold State.deviceFetch State.realFetch
  simp only []
  split
  · exact State.fetchWord_onlyAtc (State.setSeq { s.atcReceived with atc := { s.atcReceived.atc with rar := fetchBusWord a } }
      .realFetch false) (messageTarget a)
  · exact State.fetchWord_onlyAtc (s.atcReceived.setSeq .realFetch false) (messageTarget a)

/-- A word stored changes memory and the ATC. -/
theorem State.storeWord_keeps (s : State) (t : Target) (tags : Digit) (d : Word) : (s.storeWord t tags d).cpc = s.cpc ∧
    (s.storeWord t tags d).pipe = s.pipe ∧ (s.storeWord t tags d).plat = s.plat ∧ (s.storeWord t tags d).bkpt = s.bkpt ∧
    (s.storeWord t tags d).inputs = s.inputs ∧ (s.storeWord t tags d).now = s.now := by
  unfold State.storeWord State.eccRead State.writeWord State.signalError
  simp only []
  repeat' split
  all_goals exact ⟨rfl, rfl, rfl, rfl, rfl, rfl⟩

/-- The store of another device. -/
theorem State.realStore_acts (s : State) (b : Bool) (t : Target) (tags : Digit) (d : Word) :
    DeviceActs s (s.realStore b t tags d) := by
  obtain ⟨h1, h2, h3, h4, h5, h6⟩ := State.storeWord_keeps
    (s.atcReceived.setSeq (if tags = 0xF#4 then .realFullStore else .realPartialStore) b) t tags d
  exact ⟨h1, h2, h3, congrArg (fun x : Breakpoint => { x with enable := s.bkpt.enable, trap := s.bkpt.trap }) h4, h5, h6,
    State.wf_realStore s b t tags d⟩

/-- A message to a port changes at most the enable and trap bits beside the ATC (60 R730). -/
theorem State.portWrite_acts (s : State) (p : BitVec 6) (d : Word) : DeviceActs s (s.portWrite p d) := by
  unfold State.portWrite
  split <;> exact ⟨rfl, rfl, rfl, rfl, rfl, rfl, id⟩

/-- A read of a port changes the ATC. -/
theorem State.portRead_acts (s : State) (p : BitVec 6) : DeviceActs s (s.portRead p).2 := by
  unfold State.portRead
  simp only []
  split <;> exact ⟨rfl, rfl, rfl, rfl, rfl, rfl, id⟩

/-- A register message of another device, out (11 R122; 22 R276). -/
theorem State.deviceWrite_acts (s t : State) (n : BitVec 7) (d : Word) (h : s.deviceWrite n d = .ok t) : DeviceActs s t := by
  unfold State.deviceWrite at h
  split at h
  · cases h; exact s.portWrite_acts _ d
  · split at h
    · cases h
      split
      · exact OnlyAtc.acts (s.atcReceived.writeBin_onlyAtc d)
      · exact .refl s
    · split at h
      · cases h
      · next q =>
        have k := s.eruWrite_onlyAtc _ n d q
        cases h
        exact OnlyAtc.acts k

/-- A register message of another device, in (11 R122; 22 R276). -/
theorem State.deviceRead_acts (s t : State) (n : BitVec 7) (h : s.deviceRead n = .ok t) : DeviceActs s t := by
  unfold State.deviceRead at h
  split at h
  · cases h; exact s.portRead_acts _
  · split at h
    · cases h
    · next q =>
      have k := s.eruRead_onlyAtc _ n _ q
      cases h
      exact OnlyAtc.acts k

/-- What a message of another device can do. -/
theorem State.deviceMessage_acts (s t : State) (m : BusMessage) (h : s.deviceMessage m = .ok t) : DeviceActs s t := by
  cases m with
  | realFetch a => cases h; exact (s.deviceFetch_onlyAtc a).acts
  | realStore a tags d =>
    cases h
    split
    · exact (s.deviceFetch_onlyAtc a).acts
    · exact s.realStore_acts _ _ _ _
  | binWrite d => exact s.deviceWrite_acts t _ d h
  | eruWrite n d => exact s.deviceWrite_acts t n d h
  | eruRead n => exact s.deviceRead_acts t n h

/-- What the messages of other devices can do. -/
theorem State.deviceMessages_acts (s t : State) (ms : List BusMessage) (h : s.deviceMessages ms = .ok t) : DeviceActs s t := by
  induction ms generalizing s with
  | nil => cases h; exact .refl _
  | cons m ms ih =>
    simp only [State.deviceMessages] at h
    split at h
    · cases h
    · next u q => exact (s.deviceMessage_acts u m q).trans (ih u h)

/-- A refresh changes memory and the ATC. -/
theorem State.refreshWord_acts (s : State) : DeviceActs s s.refreshWord := by
  obtain ⟨h1, h2, -, h4, h5, h6, h7⟩ := s.startRefresh.eccRead_onlyAtc true s.refreshPlace
  have k : s.refreshWord.cpc = s.cpc ∧ s.refreshWord.pipe = s.pipe ∧ s.refreshWord.plat = s.plat ∧
      s.refreshWord.bkpt = s.bkpt ∧ s.refreshWord.inputs = s.inputs ∧ s.refreshWord.now = s.now := by
    unfold State.refreshWord
    simp only []
    split <;> exact ⟨h1, h2, h4, h5, h6, h7⟩
  obtain ⟨k1, k2, k3, k4, k5, k6⟩ := k
  exact ⟨k1, k2, k3, by rw [k4], k5, k6, s.wf_refreshWord⟩

/-! ### The Time-Of-Day bit -/

/-- A write of ITA that clears bit 4 holds the match off for its cycle (60 R704). -/
theorem State.writeIta_holds (s : State) (d : Word) (h : bitAt s.atc.ita 4 = true)
    (h0 : bitAt (rightHalf d &&& itaImplemented) 4 = false) : (s.writeIta d).todInhibited = true := by
  unfold State.todInhibited State.writeIta
  simp only [h, h0]
  simp

/-! ### The step -/

/-- The step from the state in which its cycle starts. -/
theorem step_of_begin {s b : State} (h : s.begin = .ok b) : step s = b.cycle := by
  unfold step; rw [h]

/-- The step when a message of a device is refused. -/
theorem step_of_refused {s : State} {r : Refusal} (h : s.begin = .error r) : step s = .refused r := by
  unfold step; rw [h]

/-- The periods of TODOSC change TOD and the request of a refresh. -/
theorem State.tick_keeps (s : State) (n : Nat) : OnlyAtc s (s.tick n) := by
  induction n generalizing s with
  | zero => exact .of s _ _
  | succ n ih => exact ih _

/-- What lies between two cycles: the CPC, the platform and the Breakpoint RAM stay, the inputs move on, memory keeps its form; of the
pipeline the C.C. MATCH that was left is due, and the byte cycles are four. -/
theorem State.begin_spec {s b : State} (h : s.begin = .ok b) :
    b.cpc = s.cpc ∧ b.pipe = { s.pipe with fieldCycles := 4, dueMatch := s.pipe.lateMatch, lateMatch := none } ∧ b.plat = s.plat ∧
      b.bkpt.ram = s.bkpt.ram ∧ b.bkpt.presents = s.bkpt.presents ∧ b.inputs = s.inputs.tail ∧
      b.now = s.inputs.headD Input.quiet ∧ (s.mem.wf = true → b.mem.wf = true) := by
  have ti : s.takeInput = { s with inputs := s.inputs.tail, now := s.inputs.headD Input.quiet } := by
    obtain ⟨c, p, a, m, l, k, i, n, f⟩ := s
    cases i <;> rfl
  unfold State.begin State.between at h
  simp only [] at h
  split at h
  · cases h
  · next t q =>
    have a := (State.deviceMessages_acts _ _ _ q).trans (u := b) (by
      cases h
      split
      · exact t.refreshWord_acts
      · exact .refl t)
    have k := State.tick_keeps s.takeInput.clearOutputs s.takeInput.clearOutputs.now.todTicks
    have u : ∀ x, (x = s.takeInput.clearOutputs.tick s.takeInput.clearOutputs.now.todTicks ∨ x = s.takeInput.clearOutputs) →
        DeviceActs x b → DeviceActs s.takeInput.clearOutputs b := by
      rintro x (rfl | rfl) g
      · exact k.acts.trans g
      · exact g
    have g := u _ (by split; exact .inl rfl; exact .inr rfl) a
    rw [ti] at g
    obtain ⟨g1, g2, g3, g4, g5, g6, g7⟩ := g
    have r := congrArg Breakpoint.ram g4
    have p := congrArg Breakpoint.presents g4
    exact ⟨g1, g2, g3, r, p, g5, g6, g7⟩

end Sys2Proof.Machine
end

