-- ==== Sys2Proof/Laws/Fields.lean ====
section
/-! SUPPORT. What the field operations do, once: a pointer step, a field byte written, the end of a byte step, the byte loop. -/

namespace Sys2Proof.Machine

/-- The data registers of the MARS units. -/
abbrev IsMars (k : RsuNum) : Prop := k = 9#4 ∨ k = 11#4 ∨ k = 13#4 ∨ k = 15#4

/-- The overflow flag of a unit is a bit of `SR` from 2 to 5. -/
theorem overflowBit_range (k : RsuNum) (hk : IsMars k) : 2 ≤ overflowBit k ∧ overflowBit k ≤ 5 := by
  rcases hk with rfl | rfl | rfl | rfl <;> decide

/-! ### One bit of `SR` -/

@[simp] theorem State.rsu_setSrAt (s : State) (n : Nat) (b : Bool) (r : RsuNum) : (s.setSrAt n b).rsu r = s.rsu r := rfl
@[simp] theorem State.indAt_setSrAt (s : State) (n : Nat) (b : Bool) (i : Nat) : (s.setSrAt n b).indAt i = s.indAt i := rfl
@[simp] theorem State.setSrAt_tally (s : State) (n : Nat) (b : Bool) : (s.setSrAt n b).cpc.tally = s.cpc.tally := rfl
@[simp] theorem State.setSrAt_m6wt (s : State) (n : Nat) (b : Bool) : (s.setSrAt n b).cpc.m6wt = s.cpc.m6wt := rfl

/-- A bit of `SR` after a write of one. -/
theorem State.sr_setSrAt (s : State) (n m : Nat) (b : Bool) (h1 : 1 ≤ n) (h16 : n ≤ 16) (hm : 1 ≤ m) :
    bitAt (s.setSrAt n b).cpc.sr m = if n = m then b else bitAt s.cpc.sr m :=
  bitAt_putBit s.cpc.sr n m b h1 h16 hm

/-! ### The overflow flag -/

@[simp] theorem State.rsu_overflow (s : State) (k : RsuNum) (b : Bool) (r : RsuNum) : (s.overflow k b).rsu r = s.rsu r := by
  unfold State.overflow; split <;> rfl
@[simp] theorem State.indAt_overflow (s : State) (k : RsuNum) (b : Bool) (i : Nat) : (s.overflow k b).indAt i = s.indAt i := by
  unfold State.overflow; split <;> rfl
@[simp] theorem State.overflow_tally (s : State) (k : RsuNum) (b : Bool) : (s.overflow k b).cpc.tally = s.cpc.tally := by
  unfold State.overflow; split <;> rfl
@[simp] theorem State.overflow_m6wt (s : State) (k : RsuNum) (b : Bool) : (s.overflow k b).cpc.m6wt = s.cpc.m6wt := by
  unfold State.overflow; split <;> rfl

/-- `SR` after the overflow flag of a unit was set. -/
theorem State.sr_overflow (s : State) (k : RsuNum) (b : Bool) (hk : IsMars k) (n : Nat) (h1 : 1 ≤ n) :
    bitAt (s.overflow k b).cpc.sr n = (bitAt s.cpc.sr n || (b && decide (n = k.toNat / 2 - 2))) := by
  obtain ⟨h2, h5⟩ := overflowBit_range k hk
  have e : overflowBit k = k.toNat / 2 - 2 := rfl
  unfold State.overflow
  cases b
  · simp
  · rw [if_pos rfl, State.sr_setSrAt _ _ _ _ (by omega) (by omega) h1, e]
    by_cases h : k.toNat / 2 - 2 = n
    · simp [h]
    · simp [h, Ne.symm h]

/-! ### A pointer step -/

/-- The register of a pointer after a step, and every other register. -/
theorem State.rsu_movePointer (s : State) (k : RsuNum) (dec : Bool) (r : RsuNum) :
    (s.movePointer k dec).rsu r = if r = evenOf k then movedBy (s.rsu (evenOf k)) (unitStep dec) else s.rsu r := by
  unfold State.movePointer State.setPointer addrReg
  rw [State.rsu_setRsu]
  by_cases h : r = evenOf k
  · rw [if_pos h.symm, if_pos h]
    unfold movedBy pointedAt unitStep State.pointer
    generalize (s.rsu (evenOf k)).extractLsb' 0 2 = x
    generalize (s.rsu (evenOf k)).extractLsb' 2 30 = y
    cases dec
    · rfl
    · have hx : x - 1 = x + 3#2 := by revert x; decide
      show y ++ (x - 1) = y ++ (x + 3#2)
      rw [hx]
  · rw [if_neg (fun q => h q.symm), if_neg h]

@[simp] theorem State.indAt_movePointer (s : State) (k : RsuNum) (dec : Bool) (i : Nat) :
    (s.movePointer k dec).indAt i = s.indAt i := rfl
@[simp] theorem State.movePointer_sr (s : State) (k : RsuNum) (dec : Bool) : (s.movePointer k dec).cpc.sr = s.cpc.sr := rfl
@[simp] theorem State.movePointer_tally (s : State) (k : RsuNum) (dec : Bool) :
    (s.movePointer k dec).cpc.tally = s.cpc.tally := rfl
@[simp] theorem State.movePointer_m6wt (s : State) (k : RsuNum) (dec : Bool) : (s.movePointer k dec).cpc.m6wt = s.cpc.m6wt := rfl

/-- A step of a unit: the registers. -/
theorem State.rsu_stepUnit (s : State) (k : RsuNum) (dec : Bool) (r : RsuNum) :
    (s.stepUnit k dec).rsu r = if r = evenOf k then movedBy (s.rsu (evenOf k)) (unitStep dec) else s.rsu r := by
  unfold State.stepUnit
  rw [State.rsu_movePointer, State.rsu_overflow, State.rsu_overflow]

@[simp] theorem State.indAt_stepUnit (s : State) (k : RsuNum) (dec : Bool) (i : Nat) :
    (s.stepUnit k dec).indAt i = s.indAt i := by unfold State.stepUnit; rw [State.indAt_movePointer, State.indAt_overflow]
@[simp] theorem State.stepUnit_tally (s : State) (k : RsuNum) (dec : Bool) : (s.stepUnit k dec).cpc.tally = s.cpc.tally := by
  unfold State.stepUnit; rw [State.movePointer_tally, State.overflow_tally]
@[simp] theorem State.stepUnit_m6wt (s : State) (k : RsuNum) (dec : Bool) : (s.stepUnit k dec).cpc.m6wt = s.cpc.m6wt := by
  unfold State.stepUnit; rw [State.movePointer_m6wt, State.overflow_m6wt]

/-- A step of a unit: the flags. -/
theorem State.sr_stepUnit (s : State) (k : RsuNum) (dec : Bool) (hk : IsMars k) (n : Nat) (h1 : 1 ≤ n) :
    bitAt (s.stepUnit k dec).cpc.sr n = (bitAt s.cpc.sr n || (s.crosses k dec && decide (n = k.toNat / 2 - 2))) := by
  unfold State.stepUnit
  rw [State.movePointer_sr, State.sr_overflow _ _ _ hk _ h1]

/-- A step crosses exactly at the edge. -/
theorem State.crosses_iff (s : State) (k : RsuNum) (dec : Bool) : s.crosses k dec = true ↔ AtEdge s k dec := by
  unfold State.crosses AtEdge addrReg; simp

/-- Whether a step crosses depends on the address register alone. -/
theorem State.crosses_of_rsu {s t : State} (k : RsuNum) (dec : Bool) (h : t.rsu (evenOf k) = s.rsu (evenOf k)) :
    t.crosses k dec = s.crosses k dec := by
  unfold State.crosses State.pointer addrReg; rw [h]

/-- A step of one unit does not move another. -/
theorem State.crosses_stepUnit (s : State) (k q : RsuNum) (d dec : Bool) (h : evenOf q ≠ evenOf k) :
    (s.stepUnit k d).crosses q dec = s.crosses q dec :=
  State.crosses_of_rsu q dec (by rw [State.rsu_stepUnit, if_neg h])

/-- A step changes nothing outside the fields. -/
theorem State.outside_stepUnit {s u : State} (k : RsuNum) (dec : Bool) (h : KeepsOutsideFields s u) :
    KeepsOutsideFields s (u.stepUnit k dec) := by
  unfold State.stepUnit State.overflow; split <;> exact h

/-! ### A field byte written -/

/-- The data register and the write tag. -/
theorem State.put6_puts (s : State) (b : Byte) : PutsField s (s.put6 b) b := by
  constructor
  · show (s.setRsu 13 _).rsu 13 = _
    rw [State.rsu_setRsu, if_pos rfl]
  · intro n h1 h4
    show bitAt (putBit s.cpc.m6wt (4 - (s.pointer 12).toNat) true) n = _
    have hp := (s.pointer 12).isLt
    rw [bitAt_putBit _ _ _ _ (by omega) (by omega) h1]
    generalize hq : (s.pointer 12).toNat = p at *
    by_cases h : 4 - p = n
    · rw [if_pos h, show decide (n + p = 4) = true by simp; omega, Bool.or_true]
    · rw [if_neg h, show decide (n + p = 4) = false by simp; omega, Bool.or_false]

/-- The other registers. -/
theorem State.rsu_put6 (s : State) (b : Byte) (r : RsuNum) (h : r ≠ 13) : (s.put6 b).rsu r = s.rsu r := by
  show (s.setRsu 13 _).rsu r = _
  rw [State.rsu_setRsu, if_neg (Ne.symm h)]

@[simp] theorem State.indAt_put6 (s : State) (b : Byte) (i : Nat) : (s.put6 b).indAt i = s.indAt i := rfl
@[simp] theorem State.put6_sr (s : State) (b : Byte) : (s.put6 b).cpc.sr = s.cpc.sr := rfl
@[simp] theorem State.put6_tally (s : State) (b : Byte) : (s.put6 b).cpc.tally = s.cpc.tally := rfl

/-! ### The end of a byte step -/

@[simp] theorem State.rsu_countByte (s : State) (dec : Bool) (r : RsuNum) : (s.countByte dec).rsu r = s.rsu r := rfl
@[simp] theorem State.indAt_countByte (s : State) (dec : Bool) (i : Nat) : (s.countByte dec).indAt i = s.indAt i := rfl
@[simp] theorem State.countByte_tally (s : State) (dec : Bool) : (s.countByte dec).cpc.tally = s.cpc.tally - 1 := rfl
@[simp] theorem State.countByte_m6wt (s : State) (dec : Bool) : (s.countByte dec).cpc.m6wt = s.cpc.m6wt := rfl

/-- The direction in `SR` after a byte step. -/
theorem State.sr_countByte (s : State) (dec : Bool) (n : Nat) (h1 : 1 ≤ n) :
    bitAt (s.countByte dec).cpc.sr n = if n = 1 then dec else bitAt s.cpc.sr n := by
  show bitAt ((s.setTally _).setSrAt 1 dec).cpc.sr n = _
  rw [State.sr_setSrAt _ _ _ _ (by omega) (by omega) h1]
  by_cases h : n = 1
  · rw [if_pos h.symm, if_pos h]
  · rw [if_neg (fun q => h q.symm), if_neg h]; rfl

/-- The end of a byte step changes nothing outside the fields. -/
theorem State.outside_countByte {s u : State} (dec : Bool) (h : KeepsOutsideFields s u) :
    KeepsOutsideFields s (u.countByte dec) := h

/-! ### Three fields -/

/-- The state after a step on three fields. -/
def State.afterThree (u : State) : State := (((u.stepUnit 9 true).stepUnit 11 true).stepUnit 13 true).countByte true

/-- The end of a step on three fields. -/
theorem State.endThree_eq (u : State) :
    u.endThree = (u.afterThree, u.crosses 9 true || u.crosses 11 true || u.crosses 13 true) := rfl

/-- The registers after a step on three fields. -/
theorem State.rsu_afterThree (u : State) (r : RsuNum) : u.afterThree.rsu r =
    if r = 12 then movedBy (u.rsu 12) (unitStep true) else if r = 10 then movedBy (u.rsu 10) (unitStep true)
    else if r = 8 then movedBy (u.rsu 8) (unitStep true) else u.rsu r := by
  unfold State.afterThree
  rw [State.rsu_countByte, State.rsu_stepUnit, State.rsu_stepUnit, State.rsu_stepUnit, State.rsu_stepUnit, State.rsu_stepUnit,
    State.rsu_stepUnit]
  rw [show evenOf 9 = 8 from rfl, show evenOf 11 = 10 from rfl, show evenOf 13 = 12 from rfl]
  by_cases a : r = 12
  · rw [if_pos a, if_pos a]; rfl
  · rw [if_neg a, if_neg a]
    by_cases b : r = 10
    · rw [if_pos b, if_pos b]; rfl
    · rw [if_neg b, if_neg b, State.rsu_stepUnit]; rfl

/-- The flags after a step on three fields. -/
theorem State.flags_afterThree (u : State) : StepsFlags u u.afterThree [9, 11, 13] true := by
  intro n h1 _
  unfold State.afterThree
  rw [State.sr_countByte _ _ _ h1]
  by_cases h : n = 1
  · simp [h]
  · rw [if_neg h, if_neg h, State.sr_stepUnit _ _ _ (by decide) _ h1, State.sr_stepUnit _ _ _ (by decide) _ h1,
      State.sr_stepUnit _ _ _ (by decide) _ h1, State.crosses_stepUnit _ _ _ _ _ (by decide),
      State.crosses_stepUnit _ _ _ _ _ (by decide), State.crosses_stepUnit _ _ _ _ _ (by decide)]
    simp only [Bool.or_eq_true, Bool.and_eq_true, decide_eq_true_eq, State.crosses_iff, List.mem_cons, List.not_mem_nil, or_false,
      exists_eq_or_imp, exists_eq_left]
    tauto

/-- A byte put in MARS6 followed by the end of a step on three fields. `u` is the state after the byte and what else the step
writes outside the registers of the fields. -/
theorem State.threeFieldStep (s u : State) (b : Byte) (ns : List Nat) (hr : ∀ r, u.rsu r = (s.put6 b).rsu r)
    (hm : u.cpc.m6wt = (s.put6 b).cpc.m6wt) (hs : u.cpc.sr = s.cpc.sr) (ht : u.cpc.tally = s.cpc.tally)
    (hi : KeepsInd s u ns) (ho : KeepsOutsideFields s u) :
    ThreeFieldStep s u.endThree.1 b ns ∧ (u.endThree.2 = true ↔ ThreeAtEdge s) := by
  have old : ∀ r, r ≠ 13 → u.rsu r = s.rsu r := fun r h => by rw [hr, State.rsu_put6 _ _ _ h]
  have edge : ∀ k dec, evenOf k ≠ 13 → (AtEdge u k dec ↔ AtEdge s k dec) := fun k dec h => by
    unfold AtEdge State.pointer; rw [old _ h]
  rw [State.endThree_eq]
  refine ⟨⟨⟨?_, ?_⟩, ⟨?_, ?_⟩, ?_, ?_, ?_, ?_⟩, ?_⟩
  · show u.afterThree.rsu 13 = _
    rw [State.rsu_afterThree, if_neg (by decide), if_neg (by decide), if_neg (by decide), hr]
    exact (s.put6_puts b).1
  · intro n a c
    rw [show u.afterThree.cpc.m6wt = u.cpc.m6wt by
      unfold State.afterThree
      rw [State.countByte_m6wt, State.stepUnit_m6wt, State.stepUnit_m6wt, State.stepUnit_m6wt], hm]
    exact (s.put6_puts b).2 n a c
  · intro k hk
    rw [State.rsu_afterThree]
    simp only [List.mem_cons, List.not_mem_nil, or_false] at hk
    rcases hk with rfl | rfl | rfl
    · rw [show evenOf 9 = 8 from rfl, if_neg (by decide), if_neg (by decide), if_pos rfl, old 8 (by decide)]
    · rw [show evenOf 11 = 10 from rfl, if_neg (by decide), if_pos rfl, old 10 (by decide)]
    · rw [show evenOf 13 = 12 from rfl, if_pos rfl, old 12 (by decide)]
  · intro k hk
    have h8 : k ≠ 8 := fun h => hk (by rw [h]; decide)
    have h10 : k ≠ 10 := fun h => hk (by rw [h]; decide)
    have h12 : k ≠ 12 := fun h => hk (by rw [h]; decide)
    have h13 : k ≠ 13 := fun h => hk (by rw [h]; decide)
    rw [State.rsu_afterThree, if_neg h12, if_neg h10, if_neg h8, old k h13]
  · intro n a c
    rw [State.flags_afterThree u n a c, hs]
    simp only [List.mem_cons, List.not_mem_nil, or_false, exists_eq_or_imp, exists_eq_left, edge 9 true (by decide),
      edge 11 true (by decide), edge 13 true (by decide)]
  · rw [show u.afterThree.cpc.tally = u.cpc.tally - 1 by
      unfold State.afterThree
      rw [State.countByte_tally, State.stepUnit_tally, State.stepUnit_tally, State.stepUnit_tally], ht]
  · intro n a c d
    rw [← hi n a c d]
    unfold State.afterThree
    rw [State.indAt_countByte, State.indAt_stepUnit, State.indAt_stepUnit, State.indAt_stepUnit]
  · exact State.outside_countByte true
      (State.outside_stepUnit 13 true (State.outside_stepUnit 11 true (State.outside_stepUnit 9 true ho)))
  · simp only [Bool.or_eq_true, State.crosses_iff, ThreeAtEdge, edge 9 true (by decide), edge 11 true (by decide),
      edge 13 true (by decide)]
    tauto

/-! ### The cycles left are neither read nor written -/

theorem State.crosses_withCycles (s : State) (n : Nat) (k : RsuNum) (dec : Bool) :
    (s.withCycles n).crosses k dec = s.crosses k dec := rfl
theorem State.countByte_withCycles (s : State) (n : Nat) (dec : Bool) :
    (s.withCycles n).countByte dec = (s.countByte dec).withCycles n := rfl
theorem State.stepUnit_withCycles (s : State) (n : Nat) (k : RsuNum) (dec : Bool) :
    (s.withCycles n).stepUnit k dec = (s.stepUnit k dec).withCycles n := by
  unfold State.stepUnit State.overflow
  rw [State.crosses_withCycles]; split <;> rfl
theorem State.stepUnit_pipe (s : State) (k : RsuNum) (dec : Bool) : (s.stepUnit k dec).pipe = s.pipe := by
  unfold State.stepUnit State.overflow; split <;> rfl
theorem State.countByte_pipe (s : State) (dec : Bool) : (s.countByte dec).pipe = s.pipe := rfl

/-- The end of a step on three fields does not depend on the cycles left. -/
theorem State.endThree_withCycles (s : State) (n : Nat) :
    (s.withCycles n).endThree = (s.endThree.1.withCycles n, s.endThree.2) := by
  rw [State.endThree_eq, State.endThree_eq]
  unfold State.afterThree
  rw [State.stepUnit_withCycles, State.stepUnit_withCycles, State.stepUnit_withCycles, State.countByte_withCycles,
    State.crosses_withCycles, State.crosses_withCycles, State.crosses_withCycles]

/-- The end of a step on three fields leaves the pipeline. -/
theorem State.endThree_pipe (s : State) : s.endThree.1.pipe = s.pipe := by
  rw [State.endThree_eq]
  unfold State.afterThree
  rw [State.countByte_pipe, State.stepUnit_pipe, State.stepUnit_pipe, State.stepUnit_pipe]

/-! ### The byte loop -/

/-- A step that neither reads nor writes the number of cycles left runs as `RunsBytes` says. -/
theorem State.runsBytes (i : Instr) (one : State → State × Bool) (P : State → State → Prop) (E : State → Prop)
    (h : ∀ s, exec i s = s.fieldRun one) (hP : ∀ s, P s (one s).1) (hE : ∀ s, (one s).2 = true ↔ E s)
    (hc : ∀ s n, one (s.withCycles n) = ((one s).1.withCycles n, (one s).2))
    (hk : ∀ s, (one s).1.pipe.fieldCycles = s.pipe.fieldCycles) : RunsBytes i P E := by
  have loop : ∀ n s c, fieldLoop one n (s.withCycles c) = (fieldLoop one n s).withCycles c := by
    intro n
    induction n with
    | zero => intro s c; rfl
    | succ n ih =>
      intro s c
      simp only [fieldLoop, hc]
      rw [show ((one s).1.withCycles c).cpc.tally = (one s).1.cpc.tally from rfl]
      split
      · rfl
      · exact ih _ _
  have kept : ∀ n s, (fieldLoop one n s).pipe.fieldCycles = s.pipe.fieldCycles := by
    intro n
    induction n with
    | zero => intro s; rfl
    | succ n ih =>
      intro s; simp only [fieldLoop]; split
      · exact hk s
      · rw [ih, hk]
  have self : ∀ s : State, s.withCycles s.pipe.fieldCycles = s := fun _ => rfl
  have run : ∀ s : State, s.cpc.tally ≠ 0#16 → exec i s = .next (fieldLoop one s.pipe.fieldCycles s) := by
    intro s h0; rw [h]; unfold State.fieldRun State.unlessVoid; rw [if_neg h0]
  intro s
  refine ⟨fun h0 => by rw [h]; unfold State.fieldRun State.unlessVoid; rw [if_pos h0], fun h0 hf => ?_⟩
  obtain ⟨n, hn⟩ : ∃ n, s.pipe.fieldCycles = n + 1 := ⟨s.pipe.fieldCycles - 1, by omega⟩
  refine ⟨(one s).1, hP s, fun q => ?_, fun e t o => ?_⟩
  · rw [run s h0, hn]
    simp only [fieldLoop]
    rcases q with q | q | q
    · rw [← hE] at q; simp [q]
    · simp [q]
    · obtain rfl : n = 0 := by omega
      simp [fieldLoop]
  · refine ⟨fieldLoop one n ((one s).1.withCycles n), ?_, ?_⟩
    · rw [run _ (by exact t), hn]; rfl
    · have e' : (one s).2 = false := by rw [← hE] at e; simpa using e
      have k := self (fieldLoop one n (one s).1)
      rw [kept, hk] at k
      rw [run s h0, hn, loop]
      simp only [fieldLoop, e', Bool.false_or, beq_iff_eq, t, if_false]
      rw [show ((fieldLoop one n (one s).1).withCycles n).withCycles (n + 1) = (fieldLoop one n (one s).1).withCycles (n + 1)
        from rfl, ← hn, k]

/-! ### Halfwords -/

/-- A halfword field instruction with two bytes or more to go and an even pointer does what it says. -/
theorem State.halfwordStep_runs (s : State) (k : RsuNum) (f : State → State) (h2 : 2 ≤ s.cpc.tally.toNat)
    (hp : (s.pointer (evenOf k)).toNat % 2 = 0) : s.halfwordStep k f = .next (f s) := by
  have hodd : s.oddPointer k = false := by
    unfold State.oddPointer addrReg; revert hp; generalize s.pointer (evenOf k) = p; revert p; decide
  unfold State.halfwordStep
  rw [if_neg (by intro h; rw [h] at h2; simp at h2), if_neg (by intro h; rw [h] at h2; simp at h2), if_neg (by rw [hodd]; simp)]

/-- A halfword field instruction with no byte to go does nothing. -/
theorem State.halfwordStep_void (s : State) (k : RsuNum) (f : State → State) (h : s.cpc.tally = 0#16) :
    s.halfwordStep k f = .next s := if_pos h

/-- A halfword field instruction with one byte to go is refused. -/
theorem State.halfwordStep_one (s : State) (k : RsuNum) (f : State → State) (h : s.cpc.tally = 1#16) :
    s.halfwordStep k f = .refused .halfwordTallyOne := by
  unfold State.halfwordStep
  rw [if_neg (by rw [h]; decide), if_pos h]

/-- A halfword field instruction at an odd pointer is refused. -/
theorem State.halfwordStep_odd (s : State) (k : RsuNum) (f : State → State) (h2 : 2 ≤ s.cpc.tally.toNat)
    (hp : (s.pointer (evenOf k)).toNat % 2 = 1) : s.halfwordStep k f = .refused .oddFieldPointer := by
  have hodd : s.oddPointer k = true := by
    unfold State.oddPointer addrReg; revert hp; generalize s.pointer (evenOf k) = p; revert p; decide
  unfold State.halfwordStep
  rw [if_neg (by intro h; rw [h] at h2; simp at h2), if_neg (by intro h; rw [h] at h2; simp at h2), if_pos hodd]

/-- A pointer step by two: the registers. -/
theorem State.rsu_stepTwo (s old : State) (k : RsuNum) (dec : Bool) (r : RsuNum) :
    (s.stepTwo old k dec).rsu r =
      if r = evenOf k then pointedAt (s.rsu (evenOf k)) (old.pointer (evenOf k) + 2) else s.rsu r := by
  unfold State.stepTwo State.setPointer addrReg pointedAt
  rw [State.rsu_setRsu, State.rsu_overflow, State.rsu_overflow]
  by_cases h : r = evenOf k
  · rw [if_pos h.symm, if_pos h]
  · rw [if_neg (fun q => h q.symm), if_neg h]

/-- The overflow flag is inside the fields' own state. -/
theorem State.outside_overflow {s u : State} (k : RsuNum) (b : Bool) (h : KeepsOutsideFields s u) :
    KeepsOutsideFields s (u.overflow k b) := by
  unfold State.overflow; split
  · exact h
  · exact h

/-- A pointer step by two is inside the fields' own state. -/
theorem State.outside_stepTwo {s u : State} (old : State) (k : RsuNum) (dec : Bool) (h : KeepsOutsideFields s u) :
    KeepsOutsideFields s (u.stepTwo old k dec) := by
  have g : ∀ v : State, KeepsOutsideFields s v →
      KeepsOutsideFields s (v.setPointer (addrReg k) (old.pointer (addrReg k) + 2)) := fun v hv => hv
  exact g _ (State.outside_overflow k _ h)

/-- A pointer step by two: the bits of `SR`. -/
theorem State.sr_stepTwo (s old : State) (k : RsuNum) (dec : Bool) (hk : IsMars k) (n : Nat) (h1 : 1 ≤ n) :
    bitAt (s.stepTwo old k dec).cpc.sr n = (bitAt s.cpc.sr n || (old.crossesTwo k dec && decide (n = k.toNat / 2 - 2))) :=
  State.sr_overflow s k (old.crossesTwo k dec) hk n h1

/-- The end of a halfword step begun in `old`. -/
theorem State.endHalf_spec (u old : State) (k : RsuNum) (dec : Bool) (hk : IsMars k) :
    (∀ r, (u.endHalf old k dec).rsu r =
      if r = evenOf k then pointedAt (u.rsu (evenOf k)) (old.pointer (evenOf k) + 2) else u.rsu r) ∧
    (u.endHalf old k dec).cpc.tally = u.cpc.tally - 2 ∧
    (u.endHalf old k dec).cpc.m6wt = u.cpc.m6wt ∧ (u.endHalf old k dec).cpc.ind = u.cpc.ind ∧
    (∀ s, KeepsOutsideFields s u → KeepsOutsideFields s (u.endHalf old k dec)) ∧ bitAt (u.endHalf old k dec).cpc.sr 1 = dec ∧
    (∀ n, 2 ≤ n → n ≠ k.toNat / 2 - 2 → bitAt (u.endHalf old k dec).cpc.sr n = bitAt u.cpc.sr n) ∧
    (bitAt (u.endHalf old k dec).cpc.sr (k.toNat / 2 - 2) = true ↔
      bitAt u.cpc.sr (k.toNat / 2 - 2) = true ∨ old.pointer (evenOf k) = if dec then 0#2 else 2#2) := by
  have hr := overflowBit_range k hk
  have e : overflowBit k = k.toNat / 2 - 2 := rfl
  have sr : ∀ m, 1 ≤ m → bitAt (u.endHalf old k dec).cpc.sr m =
      if 1 = m then dec else bitAt (u.stepTwo old k dec).cpc.sr m := by
    intro m hm
    show bitAt (((u.stepTwo old k dec).countTwo).setSrAt 1 dec).cpc.sr m = _
    rw [State.sr_setSrAt _ _ _ _ (by omega) (by omega) hm]; rfl
  refine ⟨fun r => ?_, ?_, ?_, ?_, fun s hs => ?_, ?_, fun n h2 hn => ?_, ?_⟩
  · exact State.rsu_stepTwo u old k dec r
  · show (u.overflow k _).cpc.tally - 2 = _
    rw [State.overflow_tally]
  · show (u.overflow k _).cpc.m6wt = _
    rw [State.overflow_m6wt]
  · show (u.overflow k _).cpc.ind = _
    unfold State.overflow; split <;> rfl
  · have h2 := State.outside_stepTwo old k dec hs
    exact h2
  · rw [sr 1 (by omega), if_pos rfl]
  · rw [sr n (by omega), if_neg (by omega), State.sr_stepTwo _ _ _ _ hk _ (by omega)]
    simp [hn]
  · rw [sr _ (by omega), if_neg (by omega), State.sr_stepTwo _ _ _ _ hk _ (by omega)]
    unfold State.crossesTwo addrReg
    by_cases h : old.pointer (evenOf k) = if dec then 0#2 else 2#2 <;> simp [h]

end Sys2Proof.Machine
end

