-- ==== Sys2Proof/Laws/Translation.lean ====
section
/-! SUPPORT. What a virtual message does: when it is stopped, where it goes on to, what it leaves in the ATC. -/

namespace Sys2Proof.Machine

/-- Everything but the ATC and the free-value counter is as before. -/
def KeepsButAtc (s t : State) : Prop := { t with atc := s.atc, fresh := s.fresh } = s

/-- No condition is no bit. -/
@[simp] theorem itaBit_false (n : Nat) : itaBit n false = 0#16 := rfl

/-- No condition is stopped by no mask. -/
@[simp] theorem State.unmasked_zero (s : State) : s.unmasked 0#16 = 0#16 := by simp [State.unmasked]

/-- Posting nothing changes nothing. -/
@[simp] theorem State.post_zero (s : State) : s.post 0#16 = s := by
  unfold State.post
  rw [State.unmasked_zero, BitVec.or_zero]

/-- A bit of a bitwise or. -/
theorem bitAt_or {w : Nat} (a b : BitVec w) (n : Nat) : bitAt (a ||| b) n = (bitAt a n || bitAt b n) := by simp [bitAt]

/-- A bit of a bitwise and. -/
theorem bitAt_and {w : Nat} (a b : BitVec w) (n : Nat) : bitAt (a &&& b) n = (bitAt a n && bitAt b n) := by simp [bitAt]

/-- A bit of a complement. -/
theorem bitAt_not {w : Nat} (a : BitVec w) (n : Nat) (h1 : 1 ≤ n) (h : n ≤ w) : bitAt (~~~a) n = !bitAt a n := by
  simp [bitAt]; omega

/-- A bit of a condition of `ITA`. -/
theorem bitAt_itaBit (k n : Nat) (b : Bool) (hk : 1 ≤ k) (h1 : 1 ≤ n) (h : n ≤ 16) :
    bitAt (itaBit k b) n = (b && decide (n = k)) := by
  cases b
  · simp [itaBit, bitAt]
  · rw [itaBit, if_pos rfl, bitAt, BitVec.getLsbD_shiftLeft, BitVec.getLsbD_one, Bool.true_and]
    have : decide (n - 1 < 16) = true := by simp; omega
    rw [this, Bool.true_and]
    by_cases q : n = k
    · subst q; simp
    · simp [q]; omega

/-- `ITA` after conditions were posted under the mask. -/
theorem State.bitAt_post (s : State) (c : Half) (n : Nat) (h1 : 1 ≤ n) (h : n ≤ 16) :
    bitAt (s.post c).atc.ita n = (bitAt s.atc.ita n || (bitAt c n && !bitAt s.atc.imr n)) := by
  simp only [State.post_atc, State.unmasked, bitAt_or, bitAt_and, bitAt_not _ n h1 h]

/-- The search reads the control bits, the page size and the entries. -/
theorem State.hits_of_atc {s t : State} (a : Word) (h1 : t.atc.am = s.atc.am) (h2 : t.atc.ca2 = s.atc.ca2)
    (h3 : t.atc.psr = s.atc.psr) : t.hits a = s.hits a := by
  have eq : ∀ e, t.vpnEq 0#22 e a = s.vpnEq 0#22 e a := by
    intro e
    unfold State.vpnEq State.eff State.vpnMask State.ca2At
    rw [h2, h3]
  have go : ∀ (l : List AmEntry) n, t.hitsFrom a n l = s.hitsFrom a n l := by
    intro l
    induction l with
    | nil => intro n; rfl
    | cons e es ih => intro n; unfold State.hitsFrom; rw [eq, ih]
  unfold State.hits
  rw [h1, go]

/-- A fetched word going by changes nothing that a translation reads. -/
theorem State.dropFetch_keeps (s : State) : s.dropFetch.atc.am = s.atc.am ∧ KeepsAtcControls s s.dropFetch ∧
    s.dropFetch.cpc = { s.cpc with fetch := none } ∧ s.dropFetch.mem = s.mem ∧ s.dropFetch.pipe = s.pipe ∧
    s.dropFetch.plat = s.plat ∧ s.dropFetch.bkpt = s.bkpt ∧ s.dropFetch.inputs = s.inputs ∧ s.dropFetch.now = s.now ∧
    s.dropFetch.fresh = s.fresh ∧ s.dropFetch.atc.rrResetting = s.atc.rrResetting := by
  have k : ∀ u : State, u = s.memoryErrorTrap ∨ (∃ e, u = s.signalError e) → u.atc.am = s.atc.am ∧ KeepsAtcControls s u ∧
      u.cpc = s.cpc ∧ u.mem = s.mem ∧ u.pipe = s.pipe ∧ u.plat = s.plat ∧ u.bkpt = s.bkpt ∧ u.inputs = s.inputs ∧
      u.now = s.now ∧ u.fresh = s.fresh ∧ u.atc.rrResetting = s.atc.rrResetting := by
    rintro u (rfl | ⟨e, rfl⟩)
    · unfold State.memoryErrorTrap
      split <;> exact ⟨rfl, ⟨rfl, rfl, rfl, rfl, rfl, rfl, rfl, rfl, rfl⟩, rfl, rfl, rfl, rfl, rfl, rfl, rfl, rfl, rfl⟩
    · exact ⟨rfl, ⟨rfl, rfl, rfl, rfl, rfl, rfl, rfl, rfl, rfl⟩, rfl, rfl, rfl, rfl, rfl, rfl, rfl, rfl, rfl⟩
  unfold State.dropFetch
  split
  · next w _ _ =>
    simp only []
    generalize hu : (if w.status = .uncorrectable then s.memoryErrorTrap else s.signalError w.status) = u
    obtain ⟨a1, a2, a3, a4, a5, a6, a7, a8, a9, a10, a11⟩ := k u (by rw [← hu]; split; exacts [.inl rfl, .inr ⟨_, rfl⟩])
    exact ⟨a1, a2, by rw [a3], a4, a5, a6, a7, a8, a9, a10, a11⟩
  · exact ⟨rfl, ⟨rfl, rfl, rfl, rfl, rfl, rfl, rfl, rfl, rfl⟩, rfl, rfl, rfl, rfl, rfl, rfl, rfl, rfl, rfl⟩

/-- A fetched word going by changes only the trap bit, REQS and the error outputs of the ATC. -/
theorem State.dropFetch_atc (s : State) :
    s.dropFetch.atc = { s.atc with
      ita := s.dropFetch.atc.ita
      reqs := s.dropFetch.atc.reqs
      memErr := s.dropFetch.atc.memErr
      mdee := s.dropFetch.atc.mdee } ∧
    ∀ n, 1 ≤ n → n ≤ 16 → n ≠ 14 → bitAt s.dropFetch.atc.ita n = bitAt s.atc.ita n := by
  have k : ∀ u : State, u = s.memoryErrorTrap ∨ (∃ e, u = s.signalError e) →
      u.atc = { s.atc with ita := u.atc.ita, reqs := u.atc.reqs, memErr := u.atc.memErr, mdee := u.atc.mdee } ∧
      ∀ n, 1 ≤ n → n ≤ 16 → n ≠ 14 → bitAt u.atc.ita n = bitAt s.atc.ita n := by
    rintro u (rfl | ⟨e, rfl⟩)
    · unfold State.memoryErrorTrap
      split
      · refine ⟨rfl, fun n h1 h2 h3 => ?_⟩
        show bitAt (putBit s.atc.ita 14 true) n = _
        rw [bitAt_putBit _ _ _ _ (by omega) (by omega) (by omega), if_neg (by omega)]
      · exact ⟨rfl, fun _ _ _ _ => rfl⟩
    · exact ⟨rfl, fun _ _ _ _ => rfl⟩
  unfold State.dropFetch
  split
  · next w _ _ =>
    simp only []
    exact k _ (by split; exacts [.inl rfl, .inr ⟨_, rfl⟩])
  · exact ⟨rfl, fun _ _ _ _ => rfl⟩

/-- A condition that is not masked is there. -/
theorem State.unmasked_iff (s : State) (c : Half) :
    (s.unmasked c != 0#16) = true ↔ ∃ n, 1 ≤ n ∧ n ≤ 16 ∧ bitAt c n = true ∧ bitAt s.atc.imr n = false := by
  rw [bne_iff_ne]
  constructor
  · intro h
    by_contra q
    apply h
    apply BitVec.eq_of_getLsbD_eq
    intro k hk
    have := fun h1 h2 => q ⟨k + 1, by omega, by omega, h1, h2⟩
    simp only [bitAt, Nat.add_sub_cancel] at this
    simp only [State.unmasked, BitVec.getLsbD_and, BitVec.getLsbD_not, BitVec.getLsbD_zero, hk, decide_true, Bool.true_and]
    cases h1 : c.getLsbD k <;> cases h2 : s.atc.imr.getLsbD k <;> simp_all
  · rintro ⟨n, h1, h2, h3, h4⟩ q
    have := congrArg (fun x => bitAt x n) q
    simp only [State.unmasked, bitAt_and, bitAt_not _ _ h1 h2, h3, h4] at this
    simp [bitAt] at this

/-- One condition: it stops unless it is masked. -/
theorem State.unmasked_itaBit (s : State) (k : Nat) (b : Bool) (h1 : 1 ≤ k) (h2 : k ≤ 16) :
    (s.unmasked (itaBit k b) != 0#16) = (b && !bitAt s.atc.imr k) := by
  rw [Bool.eq_iff_iff, State.unmasked_iff]
  constructor
  · rintro ⟨n, n1, n2, n3, n4⟩
    rw [bitAt_itaBit _ _ _ h1 n1 n2] at n3
    simp only [Bool.and_eq_true, decide_eq_true_eq] at n3
    obtain ⟨rfl, rfl⟩ := n3
    simp [n4]
  · intro h
    simp only [Bool.and_eq_true, Bool.not_eq_true'] at h
    exact ⟨k, h1, h2, by rw [bitAt_itaBit _ _ _ h1 h1 h2]; simp [h.1], h.2⟩

/-- The comparison with `AMR` (21 R241). -/
theorem State.amrMatch_iff (s : State) (a : Word) : s.amrMatch a = true ↔ s.Monitors a := by
  unfold State.amrMatch State.Monitors
  have e : ∀ (w : Nat) (x y : Word),
      (x.extractLsb' 2 w == y.extractLsb' 2 w) = true ↔ x.toNat / 4 % 2 ^ w = y.toNat / 4 % 2 ^ w := by
    intro w x y
    rw [beq_iff_eq, ← BitVec.toNat_inj]
    simp only [BitVec.extractLsb'_toNat, Nat.shiftRight_eq_div_pow]
  split <;> exact e _ _ _

/-- The monitor conditions, bit by bit (21 R240). -/
theorem State.bitAt_monitored (s : State) (a : Word) (pc : BitVec 2) (tags : Digit) (n : Nat) (h1 : 1 ≤ n) (h2 : n ≤ 16) :
    bitAt (s.monitored a pc (tags != 0#4)) n = true ↔
      (n = 6 ∧ tags ≠ 0#4 ∧ s.ca2At 3 = true ∧ s.ca2At 4 = true ∧ s.ca2At 8 = false ∧ s.Monitors a) ∨
      (n = 7 ∧ tags ≠ 0#4 ∧ (s.ca2At 3 = true ∧ s.ca2At 4 = false ∧ s.ca2At 8 = false ∧ s.Monitors a ∨
        s.ca2At 8 = true ∧ s.ca2At 3 = false)) ∨
      (n = 8 ∧ pc = 3#2 ∧ s.ca2At 2 = true ∧ s.Monitors a) := by
  simp only [State.monitored, bitAt_or, bitAt_itaBit _ _ _ (by omega : 1 ≤ 8) h1 h2, bitAt_itaBit _ _ _ (by omega : 1 ≤ 7) h1 h2,
    bitAt_itaBit _ _ _ (by omega : 1 ≤ 6) h1 h2]
  rw [← State.amrMatch_iff]
  cases s.amrMatch a <;> cases s.ca2At 2 <;> cases s.ca2At 3 <;> cases s.ca2At 4 <;> cases s.ca2At 8 <;>
    simp <;> tauto

/-- An entry that matches is one of the sixteen. -/
theorem State.hits_lt (s : State) (a : Word) (i : Nat) (h : i ∈ s.hits a) : i < 16 := by
  have go : ∀ (l : List AmEntry) (n : Nat), i ∈ s.hitsFrom a n l → i < n + l.length := by
    intro l
    induction l with
    | nil => intro n h; simp [State.hitsFrom] at h
    | cons e es ih =>
      intro n h
      unfold State.hitsFrom at h
      rw [List.mem_append] at h
      rcases h with h | h
      · split at h <;> simp_all
      · have := ih _ h; simp only [List.length_cons]; omega
  have := go _ _ h
  simpa using this

/-- An entry read after another was replaced. -/
theorem State.entry_setEntry (s : State) (i m : Nat) (e : AmEntry) (hi : i < 16) :
    (s.setEntry i e).entry m = if m = i then e else s.entry m := by
  unfold State.setEntry State.entry
  simp only [Vector.toList_setIfInBounds, List.getD_eq_getElem?_getD, List.getElem?_set]
  by_cases h : i = m
  · subst h; simp [hi]
  · simp [h, Ne.symm h]

/-- Setting RR changes RR bits only. -/
theorem State.entry_setReferenced_cp (s : State) (i m : Nat) : ((s.setReferenced i).entry m).cp = (s.entry m).cp := by
  have k : (({ s with atc := { s.atc with am := s.atc.am.setIfInBounds i { s.entry i with rr := true } } } : State).entry m).cp =
      (s.entry m).cp := by
    show ((s.setEntry i { s.entry i with rr := true }).entry m).cp = _
    by_cases hi : i < 16
    · rw [State.entry_setEntry _ _ _ _ hi]; split
      · next h => subst h; rfl
      · rfl
    · unfold State.setEntry State.entry
      rw [Vector.setIfInBounds_eq_of_size_le (by omega)]
  rw [← k]
  unfold State.setReferenced
  simp only []
  split
  · unfold State.entry mapAm
    simp only [List.getD_eq_getElem?_getD, Vector.toList, List.getElem?_map]
    generalize (s.atc.am.setIfInBounds i _) = v
    cases v.toArray.toList[m]? <;> simp
  · rfl


/-- An entry read in states with the same associative memory. -/
theorem State.entry_of_am {s t : State} (m : Nat) (h : t.atc.am = s.atc.am) : t.entry m = s.entry m := by
  unfold State.entry; rw [h]

/-- The tags and the address of a word as `RAR` holds it. -/
theorem rar_fields (x tags : Digit) (y : BitVec 24) :
    (x ++ tags ++ y : Word).toNat / 2 ^ 24 % 16 = tags.toNat ∧ (x ++ tags ++ y : Word).toNat / 4 % 2 ^ 22 = y.toNat / 4 := by
  have e : (x ++ tags ++ y : Word).toNat = (x.toNat * 16 + tags.toNat) * 2 ^ 24 + y.toNat := by
    rw [BitVec.toNat_append, BitVec.toNat_append, ← Nat.shiftLeft_add_eq_or_of_lt y.isLt,
      ← Nat.shiftLeft_add_eq_or_of_lt tags.isLt, Nat.shiftLeft_eq, Nat.shiftLeft_eq]
  have := tags.isLt
  have := y.isLt
  omega

/-- The same of a word with the protection code in bits 2 and 1. -/
theorem rar_page (x tags : Digit) (y : BitVec 22) (pc : BitVec 2) :
    (x ++ tags ++ y ++ pc : Word).toNat / 2 ^ 24 % 16 = tags.toNat ∧ (x ++ tags ++ y ++ pc : Word).toNat / 4 % 2 ^ 22 = y.toNat := by
  have e : (x ++ tags ++ y ++ pc : Word).toNat = ((x.toNat * 16 + tags.toNat) * 2 ^ 22 + y.toNat) * 4 + pc.toNat := by
    rw [BitVec.toNat_append, BitVec.toNat_append, BitVec.toNat_append, ← Nat.shiftLeft_add_eq_or_of_lt pc.isLt,
      ← Nat.shiftLeft_add_eq_or_of_lt y.isLt, ← Nat.shiftLeft_add_eq_or_of_lt tags.isLt, Nat.shiftLeft_eq, Nat.shiftLeft_eq,
      Nat.shiftLeft_eq]
  have := tags.isLt
  have := y.isLt
  have := pc.isLt
  omega

/-- What a virtual message does, whatever the mode: it is stopped exactly by a condition that is not masked, and leaves in the ATC what
21 R222 says. -/
theorem State.virtualOp_spec (s : State) (a : Word) (pc : BitVec 2) (tags : Digit) (h : s.Sends (virtualWord a pc)) :
    ∃ o t, s.virtualOp a pc tags = .ok (o, t) ∧ KeepsButAtc s t ∧ KeepsAtcControls s t ∧
      VirtualLeaves s t (virtualWord a pc) pc tags ∧ (s.Stops (virtualWord a pc) pc tags → o = none) ∧
      (¬s.Stops (virtualWord a pc) pc tags →
        ∃ wa, o = some { scratch := false, wa := wa } ∧ wa.toNat = s.landing (virtualWord a pc)) := by
  obtain ⟨hp, hm, hv⟩ := h
  have e : s.virtualOp a pc tags = s.translate (virtualWord a pc) pc tags := by
    unfold State.virtualOp virtualWord
    have : (s.ca2At 2 && s.ca2At 4) = false := by cases h2 : s.ca2At 2 <;> cases h4 : s.ca2At 4 <;> simp_all
    rw [hp, this]
    cases h9 : s.ca2At 9
    · have := hv h9; simp [this.1, this.2.1]
    · simp
  rw [e]
  generalize virtualWord a pc = a at *
  have mon := s.bitAt_monitored a pc tags
  unfold State.translate
  simp only []
  generalize s.monitored a pc (tags != 0#4) = c at *
  have ar : ∀ n, 1 ≤ n → n ≤ 16 → (s.Arises a pc tags n ↔ bitAt c n = true ∨ (s.ca2At 9 = false ∧
      ((n = 9 ∧ tags ≠ 0#4 ∧ ∃ i ∈ s.hits a, s.LetsThrough i pc ∧ (s.entry i).cp = false) ∨ (n = 10 ∧ s.hits a = []) ∨
      (n = 11 ∧ ∃ i ∈ s.hits a, s.permitted (s.entry i) pc = false)))) := by
    intro n h1 h2
    rw [mon n h1 h2, or_assoc, or_assoc]
  have c9 : ∀ n, 9 ≤ n → n ≤ 16 → bitAt c n = false := by
    intro n h1 h2
    rw [Bool.eq_false_iff]
    intro q
    rw [mon n (by omega) h2] at q
    omega
  have c5 : ∀ n, 1 ≤ n → n ≤ 5 → bitAt c n = false := by
    intro n h1 h2
    rw [Bool.eq_false_iff]
    intro q
    rw [mon n (by omega) (by omega)] at q
    omega
  have ustop : ((s.unmasked c != 0#16) = true) ↔ ∃ n, 1 ≤ n ∧ n ≤ 16 ∧ bitAt c n = true ∧ bitAt s.atc.imr n = false := s.unmasked_iff c
  have st : s.Stops a pc tags ↔ (s.unmasked c != 0#16) = true ∨ (s.ca2At 9 = false ∧
      ((bitAt s.atc.imr 9 = false ∧ tags ≠ 0#4 ∧ ∃ i ∈ s.hits a, s.LetsThrough i pc ∧ (s.entry i).cp = false) ∨
        (bitAt s.atc.imr 10 = false ∧ s.hits a = []) ∨
        (bitAt s.atc.imr 11 = false ∧ ∃ i ∈ s.hits a, s.permitted (s.entry i) pc = false))) := by
    rw [ustop]
    constructor
    · rintro ⟨n, hn, q, hi⟩
      simp only [List.mem_cons, List.not_mem_nil, or_false] at hn
      rw [ar n (by omega) (by omega)] at q
      rcases q with q | ⟨q9, ⟨rfl, q⟩ | ⟨rfl, q⟩ | ⟨rfl, q⟩⟩
      · exact .inl ⟨n, by omega, by omega, q, hi⟩
      · exact .inr ⟨q9, .inl ⟨hi, q⟩⟩
      · exact .inr ⟨q9, .inr (.inl ⟨hi, q⟩)⟩
      · exact .inr ⟨q9, .inr (.inr ⟨hi, q⟩)⟩
    · rintro (⟨n, h1, h2, q, hi⟩ | ⟨q9, ⟨hi, q⟩ | ⟨hi, q⟩ | ⟨hi, q⟩⟩)
      · have : 6 ≤ n ∧ n ≤ 8 := by
          constructor
          · by_contra z; rw [c5 n h1 (by omega)] at q; cases q
          · by_contra z; rw [c9 n (by omega) h2] at q; cases q
        refine ⟨n, ?_, (ar n h1 h2).2 (.inl q), hi⟩
        simp only [List.mem_cons, List.not_mem_nil, or_false]; omega
      · exact ⟨9, by decide, (ar 9 (by omega) (by omega)).2 (.inr ⟨q9, .inl ⟨rfl, q⟩⟩), hi⟩
      · exact ⟨10, by decide, (ar 10 (by omega) (by omega)).2 (.inr ⟨q9, .inr (.inl ⟨rfl, q⟩)⟩), hi⟩
      · exact ⟨11, by decide, (ar 11 (by omega) (by omega)).2 (.inr ⟨q9, .inr (.inr ⟨rfl, q⟩)⟩), hi⟩
  rw [st]
  generalize hu : (s.latchVirtual a pc).post c = u
  have u9 : u.ca2At 9 = s.ca2At 9 := by rw [← hu]; rfl
  have uimr : u.atc.imr = s.atc.imr := by rw [← hu]; rfl
  have uam : u.atc.am = s.atc.am := by rw [← hu]; rfl
  have uita : ∀ n, 1 ≤ n → n ≤ 16 → bitAt u.atc.ita n = (bitAt s.atc.ita n || (bitAt c n && !bitAt s.atc.imr n)) := by
    intro n h1 h2; rw [← hu, State.bitAt_post _ _ _ h1 h2]; rfl
  have uk : KeepsButAtc s u := by rw [← hu]; rfl
  have uc : KeepsAtcControls s u := by rw [← hu]; exact ⟨rfl, rfl, rfl, rfl, rfl, rfl, rfl, rfl, rfl⟩
  have uvarb : u.atc.varb = s.eff a := by rw [← hu]; rfl
  have uamr : u.atc.amr = if s.ca2At 4 = true ∧ pc = 3#2 then s.eff a else s.atc.amr := by
    rw [← hu]
    show (if s.ca2At 4 && pc == 3#2 then s.eff a else s.atc.amr) = _
    by_cases q : s.ca2At 4 = true <;> by_cases r : pc = 3#2 <;> simp [q, r]
  have uhits : u.hits a = s.hits a := State.hits_of_atc a uam (by rw [← hu]; rfl) (by rw [← hu]; rfl)
  have uperm : ∀ e, u.permitted e pc = s.permitted e pc := by intro e; rw [← hu]; rfl
  have uent : ∀ m, u.entry m = s.entry m := fun m => State.entry_of_am m uam
  have uref : ∀ i, (u.setReferenced i).atc.am = (s.setReferenced i).atc.am := by intro i; rw [← hu]; rfl
  have ureal : ∀ i, u.realAddress a (s.entry i) = s.realAddress a (s.entry i) := by intro i; rw [← hu]; rfl
  rw [u9, uhits]
  clear hu
  cases h9 : s.ca2At 9
  · obtain ⟨-, -, hl, hi⟩ := hv h9
    cases hh : s.hits a with
    | nil =>
      have i10 : bitAt s.atc.imr 10 = false := hi hh
      simp only [Bool.false_eq_true, if_false]
      rw [if_neg (by rw [uimr, i10]; simp)]
      refine ⟨_, _, rfl, uk, uc, ⟨?_, uvarb, uamr, ⟨fun _ => uam, fun i _ q => by simp [hh] at q⟩, rfl, (rar_fields _ _ _).1, ?_⟩,
        fun _ => rfl, fun q => absurd (.inr ⟨trivial, .inr (.inl ⟨i10, trivial⟩)⟩) q⟩
      · intro n h1 h2
        show bitAt (u.post (itaBit 10 true)).atc.ita n = true ↔ _
        rw [State.bitAt_post _ _ _ (by omega) (by omega), bitAt_itaBit _ _ _ (by omega) (by omega) (by omega), uimr,
          uita n (by omega) (by omega), ar n (by omega) (by omega), h9, hh]
        cases bitAt s.atc.ita n <;> cases bitAt c n <;> cases bitAt s.atc.imr n <;> simp
      · rintro (q | q)
        · rw [h9] at q; cases q
        · exact absurd hh q
    | cons i l =>
      have : l = [] := by rw [hh] at hl; simpa using hl
      subst this
      simp only [Bool.false_eq_true, if_false, uent]
      generalize hw : (u.setReferenced i).loadRar _ = v
      have wimr : v.atc.imr = s.atc.imr := by rw [← hw]; exact uimr
      have wam : v.atc.am = (s.setReferenced i).atc.am := by rw [← hw]; exact uref i
      have wita : v.atc.ita = u.atc.ita := by rw [← hw]; rfl
      have wk : KeepsButAtc s v := by rw [← hw]; exact uk
      have wc : KeepsAtcControls s v := by rw [← hw]; exact uc
      have wvarb : v.atc.varb = s.eff a := by rw [← hw]; exact uvarb
      have wamr : v.atc.amr = if s.ca2At 4 = true ∧ pc = 3#2 then s.eff a else s.atc.amr := by rw [← hw]; exact uamr
      have wddr : v.atc.ddr = v.atc.rar := by rw [← hw]; rfl
      have wperm : v.permitted (s.entry i) pc = s.permitted (s.entry i) pc := by rw [← hw]; exact uperm _
      have wreal : (u.setReferenced i).realAddress a (s.entry i) = s.realAddress a (s.entry i) := ureal i
      have wrar : v.atc.rar.toNat / 2 ^ 24 % 16 = tags.toNat ∧ v.atc.rar.toNat / 4 % 2 ^ 22 = s.mapped a i := by
        rw [← hw]
        have q := rar_page ((u.setReferenced i).atc.rar.extractLsb' 28 4) tags
          (((u.setReferenced i).realAddress a (s.entry i)).extractLsb' 2 22) pc
        rw [wreal] at q
        show BitVec.toNat (_ ++ _ ++ _ ++ _) / _ % _ = _ ∧ BitVec.toNat (_ ++ _ ++ _ ++ _) / _ % _ = _
        rw [wreal]
        exact q
      clear hw
      rw [wperm, wreal, v.unmasked_itaBit 11 _ (by omega) (by omega), wimr]
      generalize hf : (!(!s.permitted (s.entry i) pc && !bitAt s.atc.imr 11) && tags != 0#4 && !(s.entry i).cp) = f
      generalize hx : v.post (itaBit 11 !s.permitted (s.entry i) pc) = x
      have xita : ∀ n, 1 ≤ n → n ≤ 16 → bitAt x.atc.ita n =
          (bitAt u.atc.ita n || ((!s.permitted (s.entry i) pc && decide (n = 11)) && !bitAt s.atc.imr n)) := by
        intro n h1 h2
        rw [← hx, State.bitAt_post _ _ _ h1 h2, bitAt_itaBit _ _ _ (by omega) h1 h2, wimr, wita]
      have xk : KeepsButAtc s x := by rw [← hx]; exact wk
      have xc : KeepsAtcControls s x := by rw [← hx]; exact wc
      have ximr : x.atc.imr = s.atc.imr := by rw [← hx]; exact wimr
      have xam : x.atc.am = (s.setReferenced i).atc.am := by rw [← hx]; exact wam
      have xvarb : x.atc.varb = s.eff a := by rw [← hx]; exact wvarb
      have xamr : x.atc.amr = if s.ca2At 4 = true ∧ pc = 3#2 then s.eff a else s.atc.amr := by rw [← hx]; exact wamr
      have xddr : x.atc.ddr = x.atc.rar := by rw [← hx]; exact wddr
      have xrar : x.atc.rar.toNat / 2 ^ 24 % 16 = tags.toNat ∧ x.atc.rar.toNat / 4 % 2 ^ 22 = s.mapped a i := by rw [← hx]; exact wrar
      clear hx wimr wam wita wk wc wvarb wamr wddr wrar wperm
      generalize hy : (if f = true then x.setEntry i { x.entry i with cp := true } else x) = y
      have yk : KeepsButAtc s y := by rw [← hy]; split <;> exact xk
      have yc : KeepsAtcControls s y := by rw [← hy]; split <;> exact xc
      have yimr : y.atc.imr = s.atc.imr := by rw [← hy]; split <;> exact ximr
      have yita : y.atc.ita = x.atc.ita := by rw [← hy]; split <;> rfl
      have yvarb : y.atc.varb = s.eff a := by rw [← hy]; split <;> exact xvarb
      have yamr : y.atc.amr = if s.ca2At 4 = true ∧ pc = 3#2 then s.eff a else s.atc.amr := by rw [← hy]; split <;> exact xamr
      have yddr : y.atc.ddr = y.atc.rar := by rw [← hy]; split <;> exact xddr
      have yrar : y.atc.rar = x.atc.rar := by rw [← hy]; split <;> rfl
      have lt : i < 16 := s.hits_lt a i (by rw [hh]; simp)
      have yent : ∀ m, y.entry m = if f = true ∧ m = i then { (s.setReferenced i).entry m with cp := true } else (s.setReferenced i).entry m := by
        intro m
        rw [← hy]
        cases f
        · simp [State.entry_of_am m xam]
        · rw [if_pos rfl, State.entry_setEntry _ _ _ _ lt]
          simp only [true_and]
          split
          · next q => subst q; rw [State.entry_of_am m xam]
          · exact State.entry_of_am m xam
      rw [y.unmasked_itaBit 9 _ (by omega) (by omega), yimr]
      clear hy
      have ft : f = true ↔ tags ≠ 0#4 ∧ s.LetsThrough i pc ∧ (s.entry i).cp = false := by
        rw [← hf]
        unfold State.LetsThrough
        by_cases q : tags = 0#4
        · simp [q]
        · cases s.permitted (s.entry i) pc <;> cases bitAt s.atc.imr 11 <;> cases (s.entry i).cp <;> simp [q]
      refine ⟨_, _, rfl, yk, yc, ⟨?_, yvarb, yamr, ⟨?_, ?_⟩, yddr, ?_, ?_⟩, ?_, ?_⟩
      · intro n h1 h2
        rw [State.bitAt_post _ _ _ (by omega) (by omega), bitAt_itaBit _ _ _ (by omega) (by omega) (by omega), yimr, yita,
          xita n (by omega) (by omega), uita n (by omega) (by omega), ar n (by omega) (by omega), h9, hh]
        simp only [List.mem_singleton, exists_eq_left, ← ft, true_and, List.cons_ne_nil, and_false, false_or]
        by_cases n9 : n = 9
        · subst n9
          cases bitAt s.atc.ita 9 <;> cases bitAt c 9 <;> cases bitAt s.atc.imr 9 <;> cases f <;> simp
        · by_cases n11 : n = 11
          · subst n11
            cases bitAt s.atc.ita 11 <;> cases bitAt c 11 <;> cases bitAt s.atc.imr 11 <;> cases s.permitted (s.entry i) pc <;> simp
          · simp only [n9, n11, decide_false, Bool.and_false, Bool.false_and, Bool.or_false, false_and, or_false]
            cases bitAt s.atc.ita n <;> cases bitAt c n <;> cases bitAt s.atc.imr n <;> simp
      · rintro (q | q)
        · rw [h9] at q; cases q
        · rw [hh] at q; cases q
      · intro k _ q
        rw [hh] at q
        have : i = k := by simpa using q
        subst this
        refine ⟨fun m hm => ?_, fun r => ?_, fun r => ?_⟩
        · refine (yent m).trans ?_
          rw [if_neg (fun z => hm z.2)]
        · refine (yent i).trans ?_
          by_cases z : (s.entry i).cp = false
          · rw [if_pos ⟨ft.2 ⟨r.1, r.2, z⟩, rfl⟩]
          · rw [if_neg (fun w => z (ft.1 w.1).2.2)]
            have : ((s.setReferenced i).entry i).cp = true := by rw [State.entry_setReferenced_cp]; simpa using z
            rw [← this]
        · refine (yent i).trans ?_
          rw [if_neg (fun w => r ⟨(ft.1 w.1).1, (ft.1 w.1).2.1⟩)]
      · show y.atc.rar.toNat / 2 ^ 24 % 16 = _
        rw [yrar]; exact xrar.1
      · intro _
        show y.atc.rar.toNat / 4 % 2 ^ 22 = _
        rw [yrar, xrar.2]
        simp [State.landing, h9, hh]
      · intro q
        rw [if_pos]
        simp only [Bool.or_eq_true, Bool.and_eq_true, Bool.not_eq_true']
        simp only [List.mem_singleton, exists_eq_left, ← ft, true_and, List.cons_ne_nil, and_false, false_or] at q
        rcases q with q | ⟨q1, q2⟩ | ⟨q1, q2⟩
        · exact .inl (.inl q)
        · exact .inr ⟨q2, q1⟩
        · exact .inl (.inr ⟨q2, q1⟩)
      · intro q
        refine ⟨_, if_neg fun r => q ?_, ?_⟩
        · simp only [Bool.or_eq_true, Bool.and_eq_true, Bool.not_eq_true'] at r
          simp only [List.mem_singleton, exists_eq_left, ← ft, true_and, List.cons_ne_nil, and_false, false_or]
          rcases r with (r | r) | r
          · exact .inl r
          · exact .inr (.inr ⟨r.2, r.1⟩)
          · exact .inr (.inl ⟨r.2, r.1⟩)
        · simp [State.landing, h9, hh, State.mapped]
  · simp only [Bool.true_eq_false, false_and, or_false, if_true]
    refine ⟨_, _, rfl, uk, uc, ⟨?_, uvarb, uamr, ⟨fun _ => uam, fun i q => by simp [h9] at q⟩, rfl, ?_, ?_⟩, ?_, ?_⟩
    · intro n h1 h2
      show bitAt u.atc.ita n = true ↔ _
      rw [uita n (by omega) (by omega), ar n (by omega) (by omega), h9]
      simp
    · exact (rar_fields _ _ _).1
    · intro _
      refine ((rar_fields _ _ _).2).trans ?_
      simp only [State.landing, h9, if_true, BitVec.extractLsb'_toNat, Nat.shiftRight_zero]
      omega
    · intro q; rw [if_pos q]
    · intro q; rw [if_neg q]
      refine ⟨_, rfl, ?_⟩
      simp only [State.landing, h9, if_true, BitVec.extractLsb'_toNat, Nat.shiftRight_eq_div_pow]

/-- A fetched word going by does not change what a virtual message does. -/
theorem State.dropFetch_virtual (s : State) (a : Word) (pc : BitVec 2) (tags : Digit) :
    (s.dropFetch.Sends a ↔ s.Sends a) ∧ (s.dropFetch.Stops a pc tags ↔ s.Stops a pc tags) ∧ s.dropFetch.landing a = s.landing a ∧
      ∀ t, VirtualLeaves s.dropFetch t a pc tags → VirtualLeaves s t a pc tags := by
  obtain ⟨ha, hita⟩ := s.dropFetch_atc
  have hp : s.dropFetch.plat = s.plat := s.dropFetch_keeps.2.2.2.2.2.1
  generalize s.dropFetch = u at ha hita hp
  have hca2 : u.atc.ca2 = s.atc.ca2 := by rw [ha]
  have himr : u.atc.imr = s.atc.imr := by rw [ha]
  have hpsr : u.atc.psr = s.atc.psr := by rw [ha]
  have hamr : u.atc.amr = s.atc.amr := by rw [ha]
  have ham : u.atc.am = s.atc.am := by rw [ha]
  have hrr : u.atc.rrResetting = s.atc.rrResetting := by rw [ha]
  have hh : u.hits a = s.hits a := State.hits_of_atc a ham hca2 hpsr
  have ho : ∀ i, (u.setReferenced i).atc.am = (s.setReferenced i).atc.am := by
    intro i; unfold State.setReferenced State.entry; simp only [ham]
  have hl : u.landing a = s.landing a := by
    unfold State.landing State.mapped State.realAddress State.entry State.ca2At
    rw [hh, hca2, hpsr, ham]
  have hlt : ∀ i, u.LetsThrough i pc ↔ s.LetsThrough i pc := by
    intro i
    unfold State.LetsThrough State.permitted State.entry State.ca2At
    rw [hca2, himr, ham]
  have har : ∀ n, u.Arises a pc tags n ↔ s.Arises a pc tags n := by
    intro n
    unfold State.Arises State.Monitors State.permitted State.entry State.ca2At
    simp only [hlt, hh, hca2, ham, hamr]
  refine ⟨?_, ?_, hl, ?_⟩
  · unfold State.Sends State.pageSizeOk State.ca2At
    rw [hp, hca2, hrr, hpsr, hh, himr]
  · unfold State.Stops
    simp only [har, himr]
  · rintro t ⟨h1, h2, h3, ⟨h4, h5⟩, h6, h7, h8⟩
    unfold VirtualLeaves LeavesEntries
    refine ⟨fun n n1 n2 => ?_, ?_, ?_, ⟨?_, fun i => ?_⟩, h6, h7, ?_⟩
    · rw [← hita n (by omega) (by omega) (by omega), ← har, ← himr]
      exact h1 n n1 n2
    · rw [h2]; unfold State.eff State.ca2At; rw [hca2]
    · rw [h3]; unfold State.eff State.ca2At; rw [hca2, hamr]
    · rw [← ham, ← hh]; unfold State.ca2At at h4 ⊢; rwa [hca2] at h4
    · have q := h5 i
      unfold State.ca2At at q ⊢
      rw [hca2, hh] at q
      simp only [State.entry_of_am _ (ho i), hlt] at q
      exact q
    · rw [← hl, ← hh]; unfold State.ca2At at h8 ⊢; rwa [hca2] at h8

/-- What a virtual message of the CPC does, the fetched word before it having gone by (40 R361; 21 R222). -/
theorem State.dropFetch_virtualOp_spec (s : State) (a : Word) (pc : BitVec 2) (tags : Digit) (h : s.Sends (virtualWord a pc)) :
    ∃ o t, s.dropFetch.virtualOp a pc tags = .ok (o, t) ∧ KeepsButAtc { s with cpc := { s.cpc with fetch := none } } t ∧
      KeepsAtcControls s t ∧ VirtualLeaves s t (virtualWord a pc) pc tags ∧ (s.Stops (virtualWord a pc) pc tags → o = none) ∧
      (¬s.Stops (virtualWord a pc) pc tags →
        ∃ wa, o = some { scratch := false, wa := wa } ∧ wa.toNat = s.landing (virtualWord a pc)) := by
  obtain ⟨ds, dt, dl, dv⟩ := s.dropFetch_virtual (virtualWord a pc) pc tags
  obtain ⟨-, ⟨c1, c2, c3, c4, c5, c6, c7, c8, c9⟩, k2, k3, k4, k5, k6, k7, k8, k9, -⟩ := s.dropFetch_keeps
  obtain ⟨o, t, e, kb, ⟨e1, e2, e3, e4, e5, e6, e7, e8, e9⟩, vl, st, go⟩ := s.dropFetch.virtualOp_spec a pc tags (ds.2 h)
  refine ⟨o, t, e, ?_, ⟨e1.trans c1, e2.trans c2, e3.trans c3, e4.trans c4, e5.trans c5, e6.trans c6, e7.trans c7, e8.trans c8,
    e9.trans c9⟩, dv t vl, fun q => st (dt.2 q), fun q => dl ▸ go (fun r => q (dt.1 r))⟩
  have d : { s.dropFetch with atc := s.atc, fresh := s.fresh } = { s with cpc := { s.cpc with fetch := none } } := by
    rw [← k2, ← k3, ← k4, ← k5, ← k6, ← k7, ← k8]
  unfold KeepsButAtc at kb ⊢
  rw [← d, ← kb]

/-- A word fetched: only the Syndrome Register, MD and the free-value counter change (20 R209). -/
theorem State.fetchWord_keeps (s : State) (t : Target) :
    { (s.fetchWord t).2 with
      fresh := s.fresh
      atc := { (s.fetchWord t).2.atc with syn := s.atc.syn, synEr := s.atc.synEr, md := s.atc.md } } = s := by
  have e : { (s.eccRead true (s.physical t)).2 with
      atc := { (s.eccRead true (s.physical t)).2.atc with syn := s.atc.syn, synEr := s.atc.synEr } } = s := by
    unfold State.eccRead
    simp only []
    split <;> rfl
  unfold State.fetchWord
  split
  · simp only []
    split
    · split <;> rfl
    · rfl
  · generalize s.eccRead true (s.physical t) = r at e ⊢
    obtain ⟨⟨d, x⟩, u⟩ := r
    simp only [] at e ⊢
    obtain ⟨_, _, ⟨_⟩, _, _, _, _, _, _⟩ := u
    obtain ⟨_, _, ⟨_⟩, _, _, _, _, _, _⟩ := s
    simp only [State.mk.injEq, Atc.mk.injEq, true_and] at e
    split
    · simp_all [State.drawWord]
    · split <;> simp_all

/-- The fields of a descriptor word in the default layout (11 R139). -/
theorem PdLayout.word_default (e : AmEntry) (w : Word) :
    let r := PdLayout.default.word w e
    r.extractLsb' 10 14 = e.pfn ∧ r.extractLsb' 28 4 = e.pcp ∧ r.extractLsb' 6 4 = e.pcn ∧ bitAt r 2 = e.ir ∧ bitAt r 1 = e.cp := by
  have key : ∀ n, 1 ≤ n → n ≤ 32 → bitAt (PdLayout.default.word w e) n =
      if n = 1 then e.cp else if n = 2 then e.ir else
      if n = 7 then bitAt e.pcn 1 else if n = 8 then bitAt e.pcn 2 else if n = 9 then bitAt e.pcn 3 else if n = 10 then bitAt e.pcn 4 else
      if n = 29 then bitAt e.pcp 1 else if n = 30 then bitAt e.pcp 2 else if n = 31 then bitAt e.pcp 3 else if n = 32 then bitAt e.pcp 4 else
      bitAt (w.extractLsb' 24 8 ++ e.pfn ++ w.extractLsb' 0 10 : Word) n := by
    intro n h1 h2
    have p : ∀ (x : Word) (m : Nat) (c : Bool), 1 ≤ m → m ≤ 32 → bitAt (putBit x m c) n = if n = m then c else bitAt x n := by
      intro x m c a1 a2
      rw [bitAt_putBit _ _ _ _ a1 a2 h1]
      by_cases q : m = n
      · rw [if_pos q, if_pos q.symm]
      · rw [if_neg q, if_neg (Ne.symm q)]
    show bitAt (putBit (putBit (putSet (putSet _ 32 31 30 29 e.pcp) 10 9 8 7 e.pcn) 2 e.ir) 1 e.cp) n = _
    unfold putSet
    rw [p _ 1 _ (by decide) (by decide), p _ 2 _ (by decide) (by decide), p _ 7 _ (by decide) (by decide), p _ 8 _ (by decide) (by decide),
      p _ 9 _ (by decide) (by decide), p _ 10 _ (by decide) (by decide), p _ 29 _ (by decide) (by decide), p _ 30 _ (by decide) (by decide),
      p _ 31 _ (by decide) (by decide), p _ 32 _ (by decide) (by decide)]
  intro r
  have g : ∀ i, i < 32 → r.getLsbD i = bitAt (PdLayout.default.word w e) (i + 1) := fun i _ => rfl
  refine ⟨?_, ?_, ?_, key 2 (by decide) (by decide), key 1 (by decide) (by decide)⟩
  · apply BitVec.eq_of_getLsbD_eq
    intro i hi
    rw [BitVec.getLsbD_extractLsb', g _ (by omega), key _ (by omega) (by omega)]
    simp only [hi, decide_true, Bool.true_and]
    repeat rw [if_neg (by omega)]
    unfold bitAt
    rw [BitVec.getLsbD_append, BitVec.getLsbD_append]
    rw [if_neg (by omega), if_pos (by omega)]
    congr 1; omega
  · apply BitVec.eq_of_getLsbD_eq
    intro i hi
    rw [BitVec.getLsbD_extractLsb', g _ (by omega), key _ (by omega) (by omega)]
    simp only [hi, decide_true, Bool.true_and]
    interval_cases i <;> rfl
  · apply BitVec.eq_of_getLsbD_eq
    intro i hi
    rw [BitVec.getLsbD_extractLsb', g _ (by omega), key _ (by omega) (by omega)]
    simp only [hi, decide_true, Bool.true_and]
    interval_cases i <;> rfl

end Sys2Proof.Machine
end

