-- ==== Sys2Proof/Tests/Slice0.lean ====
section
/-! SUPPORT. Tests: the well-formedness checks, the words of the encodings, the vectors of 95, and a witness for the hypotheses of
each obligation. Expected values come from the spec: the encodings of 40 to 47, the vectors of 95, the examples of the rules. -/

namespace Sys2Proof.Tests

open Sys2Proof Sys2Proof.Machine

/-! ### Helpers -/

/-- The machine after reset with the listed registers. -/
def regs (l : List (RsuNum × Word)) : State := l.foldl (fun s p => s.setRsu p.1 p.2) State.reset

/-- The instruction gives a next state of which `p` holds. -/
def yields (i : Instr) (s : State) (p : State → Bool) : Bool :=
  match exec i s with
  | .next t => p t
  | _ => false

/-- The instruction is refused for `r`. -/
def refuses (i : Instr) (s : State) (r : Refusal) : Bool :=
  match exec i s with
  | .refused q => q == r
  | _ => false

/-- The step gives a next state of which `p` holds. -/
def steps (s : State) (p : State → Bool) : Bool :=
  match step s with
  | .next t => p t
  | _ => false

/-- The message of a device is taken, and `p` holds after it. -/
def delivers (s : State) (m : BusMessage) (p : State → Bool) : Bool :=
  match s.deviceMessage m with
  | .ok t => p t
  | .error _ => false

/-- The state in which the cycle starts; `s` if a message of a device is refused. -/
def begun (s : State) : State :=
  match s.begin with
  | .ok b => b
  | .error _ => s

/-- No message of a device before the cycle is refused. -/
def begins (s : State) : Bool :=
  match s.begin with
  | .ok _ => true
  | .error _ => false

/-- `begun s` is the state that the statements about a step speak of. -/
theorem begin_eq (s : State) (h : begins s = true) : s.begin = .ok (begun s) := by
  unfold begins at h
  unfold begun
  cases q : s.begin with
  | ok b => rfl
  | error r => rw [q] at h; cases h

/-- The step is refused for `r`. -/
def stepRefuses (s : State) (r : Refusal) : Bool :=
  match step s with
  | .refused q => q == r
  | _ => false

/-- I1, I2 and I3 are as listed. -/
def signs (t : State) (a b c : Bool) : Bool := t.indAt 1 == a && t.indAt 2 == b && t.indAt 3 == c

/-- Every word decodes to the instruction beside it. -/
def allDecode (l : List (Half × Half × Instr)) : Bool := l.all fun p => decide (decode p.1 p.2.1 = .ok p.2.2)

/-- No word of the list decodes. -/
def noneDecodes (l : List Half) : Bool := l.all fun w =>
  match decode w 0 with
  | .ok _ => false
  | .error _ => true

/-! ### Well-formedness -/

/-- Each check refuses an instruction its page forbids. -/
theorem test_wellformed_refuses :
    ([.tflhd 0 13, .tflhi 0 8, .tfrhd 0 0, .tfrhi 0 10, .tfbd 0 13, .tfbi 0 12, .tfbdn 0 14, .tfb 0 8, .tfbin 0 7, .jor 1 0,
      .djor 4 0, .setia 0 14, .jmpia 0 14, .jmpib 0, .jmpna 0 7, .jmpnb 13, .rcv 0 3, .rcv 0 4] : List Instr).all
      (fun i => !i.wellFormed) = true := by decide

/-- Each forbidden combination of map enables is refused. -/
theorem test_wellformed_refuses_maps :
    ([.mii 0x80, .mii 0x40, .mii 0x30, .mii 0x11, .mii 0x22, .mii 0x05, .mii 0x0A, .min 0x80, .min 0x40, .min 0x20, .min 0x18,
      .miv 0x80, .miv 0x18, .miv 0x60] : List Instr).all (fun i => !i.wellFormed) = true := by decide

/-- The operands beside the forbidden ones are allowed. -/
theorem test_wellformed_allows :
    ([.tflhd 0 9, .tfb 0 11, .tfbin 15 15, .jor 0 15, .djor 3 0, .setia 0 15, .jmpnb 15, .mii 0x0C, .mii 0x03, .min 0x17, .miv 0x57, .rcv 15 2] : List Instr).all
      (fun i => i.wellFormed) = true := by decide

/-! ### Decoding -/

/-- Words of 40_memory_instr.md, written out from the encodings of R366 to R377. -/
theorem test_decode_memory_1 :
    allDecode [
      (0x0209, 0x0000, .mrr 9),
      (0x0309, 0x0000, .fr 9),
      (0x0409, 0x0000, .f 9),
      (0x0569, 0x0000, .lfa 6 9),
      (0x0669, 0x0000, .lfal 6 9),
      (0x0769, 0x0000, .lfd 6 9),
      (0x0AD0, 0x0000, .fl 45),
      (0x1469, 0x0000, .sr 6 9),
      (0x1569, 0x0000, .s 6 9),
      (0x1669, 0x0000, .sa 6 9),
      (0x1769, 0x0000, .sd 6 9),
      (0x1AD9, 0x0000, .sl 45 9)] = true := by decide

/-- Words of 41_transfer.md, written out from the encodings of R392 to R403. -/
theorem test_decode_transfer_1 :
    allDecode [
      (0x0139, 0x0000, .tie 19 9),
      (0x0F59, 0x0000, .tip 53 9),
      (0x1139, 0x0000, .toe 19 9),
      (0x1F59, 0x0000, .top 53 9),
      (0x2139, 0x0000, .tii 19 9),
      (0x3139, 0x0000, .toi 19 9),
      (0x5169, 0x0000, .tw 6 9),
      (0x58A5, 0x0000, .ltrc 0xa5),
      (0x59A5, 0x0000, .lb 0xa5),
      (0x5A69, 0x0000, .lld 6 9),
      (0x5B69, 0x0000, .lrd 6 9),
      (0x5C09, 0xBEEF, .lrh 9 0xbeef)] = true := by decide

/-- Words of 41_transfer.md, written out from the encodings of R404 to R415. -/
theorem test_decode_transfer_2 :
    allDecode [
      (0x5D09, 0xBEEF, .lrhc 9 0xbeef),
      (0xA069, 0x0000, .swar 6 9),
      (0xA169, 0x0000, .swll 6 9),
      (0xA269, 0x0000, .swllc 6 9),
      (0xA369, 0x0000, .swlr 6 9),
      (0xA469, 0x0000, .swlrc 6 9),
      (0xA569, 0x0000, .swcl 6 9),
      (0xAA69, 0x0000, .tlhlh 6 9),
      (0xAB69, 0x0000, .tlhrh 6 9),
      (0xAC69, 0x0000, .trhlh 6 9),
      (0xAD69, 0x0000, .trhrh 6 9),
      (0xCD69, 0x0000, .tb 6 9)] = true := by decide

/-- Words of 41_transfer.md, written out from the encodings of R416 to R419. -/
theorem test_decode_transfer_3 :
    allDecode [
      (0xD269, 0x0000, .tldl 6 9),
      (0xD369, 0x0000, .tldr 6 9),
      (0xD469, 0x0000, .trdl 6 9),
      (0xD569, 0x0000, .trdr 6 9)] = true := by decide

/-- Words of 42_field.md, written out from the encodings of R462 to R466. -/
theorem test_decode_field_1 :
    allDecode [
      (0x2269, 0x0000, .tflhd 6 9),
      (0x236B, 0x0000, .tflhi 6 11),
      (0x246F, 0x0000, .tfrhd 6 15),
      (0x2569, 0x0000, .tfrhi 6 9),
      (0x26D9, 0x0000, .tffd),
      (0x27D9, 0x0000, .tffi),
      (0x286B, 0x0000, .tfbd 6 11),
      (0x2969, 0x0000, .tfbi 6 9),
      (0x2A6F, 0x0000, .tfbdn 6 15),
      (0x2B69, 0x0000, .tfb 6 9),
      (0x3F6B, 0x0000, .tfbin 6 11),
      (0xA66D, 0x0000, .tlhfd 6)] = true := by decide

/-- Words of 42_field.md, written out from the encodings of R467 to R455. -/
theorem test_decode_field_2 :
    allDecode [
      (0xA76D, 0x0000, .tlhfi 6),
      (0xA86D, 0x0000, .trhfd 6),
      (0xA96D, 0x0000, .trhfi 6),
      (0xBB6D, 0x0000, .tbfin 6),
      (0xBC6D, 0x0000, .tbfd 6),
      (0xBD6D, 0x0000, .tbfi 6),
      (0xBE6D, 0x0000, .tbfdn 6),
      (0xBF6D, 0x0000, .tbf 6)] = true := by decide

/-- Words of 43_logical.md, written out from the encodings of R481 to R492. -/
theorem test_decode_logical_1 :
    allDecode [
      (0x429B, 0x0000, .baf),
      (0x439B, 0x0000, .bof),
      (0x449B, 0x0000, .bef),
      (0x4E69, 0x0000, .baw 6 9),
      (0x4F69, 0x0000, .bow 6 9),
      (0x5069, 0x0000, .bew 6 9),
      (0x5E69, 0x0000, .biw 6 9),
      (0xCA69, 0x0000, .bab 6 9),
      (0xCB69, 0x0000, .bob 6 9),
      (0xCC69, 0x0000, .beb 6 9),
      (0xD869, 0x0000, .bald 6 9),
      (0xD969, 0x0000, .bard 6 9)] = true := by decide

/-- Words of 43_logical.md, written out from the encodings of R493 to R497. -/
theorem test_decode_logical_2 :
    allDecode [
      (0xDA69, 0x0000, .bold 6 9),
      (0xDB69, 0x0000, .bord 6 9),
      (0xDC69, 0x0000, .beld 6 9),
      (0xDD69, 0x0000, .berd 6 9),
      (0xDF69, 0x0000, .bib 6 9)] = true := by decide

/-- Words of 44_arithmetic.md, written out from the encodings of R525 to R536. -/
theorem test_decode_arithmetic_1 :
    allDecode [
      (0x409B, 0x0000, .af),
      (0x419B, 0x0000, .sf),
      (0x459B, 0x0000, .cfu),
      (0x469B, 0x0000, .apdf),
      (0x479B, 0x0000, .spdf),
      (0x489B, 0x0000, .audf),
      (0x499B, 0x0000, .sudf),
      (0x4A69, 0x0000, .aw 6 9),
      (0x4B69, 0x0000, .sw 6 9),
      (0x4C69, 0x0000, .awc 6 9),
      (0x4D69, 0x0000, .swc 6 9),
      (0x5269, 0x0000, .cws 6 9)] = true := by decide

/-- Words of 44_arithmetic.md, written out from the encodings of R537 to R548. -/
theorem test_decode_arithmetic_2 :
    allDecode [
      (0x5369, 0x0000, .cwu 6 9),
      (0x579B, 0x0000, .cbfu),
      (0x9369, 0x0000, .acrl 6 9),
      (0x9C69, 0x0000, .awlni 6 9),
      (0x9D69, 0x0000, .swlni 6 9),
      (0xAE69, 0x0000, .awl 6 9),
      (0xAF69, 0x0000, .swl 6 9),
      (0xC069, 0x0000, .cbs 6 9),
      (0xC169, 0x0000, .cbu 6 9),
      (0xC669, 0x0000, .ab 6 9),
      (0xC769, 0x0000, .sb 6 9),
      (0xC869, 0x0000, .abc 6 9)] = true := by decide

/-- Words of 44_arithmetic.md, written out from the encodings of R549 to R554. -/
theorem test_decode_arithmetic_3 :
    allDecode [
      (0xC969, 0x0000, .sbc 6 9),
      (0xCE69, 0x0000, .apdb 6 9),
      (0xCF69, 0x0000, .spdb 6 9),
      (0xD069, 0x0000, .apdbc 6 9),
      (0xD169, 0x0000, .spdbc 6 9),
      (0xDE69, 0x0000, .sbl 6 9)] = true := by decide

/-- Words of 45_jump.md, written out from the encodings of R580 to R591. -/
theorem test_decode_jump_1 :
    allDecode [
      (0x2C09, 0x0000, .jor 0 9),
      (0x2D29, 0x0000, .djor 2 9),
      (0x3C00, 0x0000, .jpmbn),
      (0x3E00, 0x0000, .djpmbn),
      (0x6099, 0x0000, .srb3o 9 9),
      (0x6299, 0x0000, .djibo 9 9),
      (0x6399, 0x0000, .djibz 9 9),
      (0x6459, 0x0000, .ribo 5 9),
      (0x6559, 0x0000, .dribo 5 9),
      (0x6659, 0x0000, .ribz 5 9),
      (0x6759, 0x0000, .dribz 5 9),
      (0x6800, 0x0000, .jfa)] = true := by decide

/-- Words of 45_jump.md, written out from the encodings of R592 to R603. -/
theorem test_decode_jump_2 :
    allDecode [
      (0x6900, 0x0000, .jfal),
      (0x6A99, 0x0000, .jibo 9 9),
      (0x6B99, 0x0000, .jibz 9 9),
      (0x6C3C, 0x0000, .jrp 0x3c),
      (0x6D3C, 0x0000, .jrm 0x3c),
      (0x6E3C, 0x0000, .djrp 0x3c),
      (0x6F3C, 0x0000, .djrm 0x3c),
      (0x7959, 0xBEEF, .jiol 9 5 9 0xbeef),
      (0x8959, 0xBEEF, .jizl 9 5 9 0xbeef),
      (0x903C, 0x0000, .djtnz 0x3c),
      (0xB03C, 0x0000, .jrpx 0x3c),
      (0xB13C, 0x0000, .jrmx 0x3c)] = true := by decide

/-- Words of 45_jump.md, written out from the encodings of R604 to R615. -/
theorem test_decode_jump_3 :
    allDecode [
      (0xB299, 0x0000, .jibom 9 9),
      (0xB399, 0x0000, .jibzm 9 9),
      (0xB499, 0x0000, .djibom 9 9),
      (0xB599, 0x0000, .djibzm 9 9),
      (0xB690, 0xBEEF, .jibol 9 0xbeef),
      (0xB790, 0xBEEF, .jibzl 9 0xbeef),
      (0xB890, 0x0000, .sibo 9),
      (0xB990, 0x0000, .sibz 9),
      (0xBA3C, 0x0000, .jtnz 0x3c),
      (0xC269, 0x0000, .sru 6 9),
      (0xC369, 0x0000, .sre 6 9),
      (0xC499, 0x0000, .srbo 9 9)] = true := by decide

/-- Words of 45_jump.md, written out from the encodings of R616 to R618. -/
theorem test_decode_jump_4 :
    allDecode [
      (0xC599, 0x0000, .srbz 9 9),
      (0xE969, 0xBEEF, .jro 9 6 9 0xbeef),
      (0xF969, 0xBEEF, .jrz 9 6 9 0xbeef)] = true := by decide

/-- Words of 46_setup_emulation.md, written out from the encodings of R650 to R649. -/
theorem test_decode_setup_1 :
    allDecode [
      (0x2E6F, 0x0000, .setia 6 15),
      (0x2F6F, 0x0000, .setna 6),
      (0x325F, 0x0000, .jmpia 5 15),
      (0x330F, 0x0000, .jmpib 15),
      (0x3400, 0x0000, .jmpic),
      (0x355F, 0x0000, .jmpna 5 15),
      (0x360F, 0x0000, .jmpnb 15),
      (0x3700, 0x0000, .jmpnc),
      (0x380F, 0x0000, .jmpva),
      (0x390F, 0x0000, .jmpvb),
      (0x3A00, 0x0000, .jmpvc),
      (0x3B09, 0x0000, .jmpd 9)] = true := by decide

/-- Words of 46_setup_emulation.md, written out from the encodings of R652 to R660. -/
theorem test_decode_setup_2 :
    allDecode [
      (0x5406, 0x0000, .mii 0x6),
      (0x5515, 0x0000, .min 0x15),
      (0x5652, 0x0000, .miv 0x52),
      (0x9660, 0x0000, .tsb 6),
      (0x9760, 0x0000, .tsldc 6),
      (0x9860, 0x0000, .tsrdc 6),
      (0x9960, 0x0000, .tsbc 6),
      (0x9A09, 0x0000, .setsx 9),
      (0x9B00, 0x0000, .lts)] = true := by decide

/-- Words of 47_misc.md, written out from the encodings of R672 to R684. -/
theorem test_decode_misc_1 :
    allDecode [
      (0x12A5, 0x0000, .eaf 0xa5),
      (0x1300, 0x0000, .wpmb),
      (0x3D62, 0x0000, .rcv 6 2),
      (0x6159, 0x0000, .linkm 5 9),
      (0x9112, 0x0000, .rti 1 2),
      (0x9259, 0x0000, .link 5 9),
      (0x94A5, 0x0000, .sc 0xa5),
      (0x95A5, 0x0000, .rc 0xa5),
      (0x9E00, 0x0000, .sco),
      (0x9F00, 0x0000, .riz),
      (0xD669, 0x0000, .upkl 6 9),
      (0xD769, 0x0000, .upkr 6 9)] = true := by decide

/-- Sample words of 95 section 2.1. -/
theorem test_decode_samples_1 :
    allDecode [
      (0x0000, 0, .tie 0 0),
      (0x00C3, 0, .tie 12 3),
      (0x020C, 0, .mrr 12),
      (0x0522, 0, .lfa 2 2),
      (0x078C, 0, .lfd 8 12),
      (0x0850, 0, .fl 5),
      (0x0C00, 0, .tip 0 0),
      (0x1082, 0, .toe 8 2),
      (0x14F6, 0, .sr 15 6),
      (0x1852, 0, .sl 5 2),
      (0x1C11, 0, .top 1 1),
      (0x2D36, 0, .djor 3 6),
      (0x322F, 0, .jmpia 2 15),
      (0x3D91, 0, .rcv 9 1),
      (0x579B, 0, .cbfu)] = true := by decide

/-- Sample words of 95 section 2.1. -/
theorem test_decode_samples_2 :
    allDecode [
      (0x5D0A, 0x0200, .lrhc 10 0x0200),
      (0x600A, 0, .srb3o 0 10),
      (0x6402, 0, .ribo 0 2),
      (0x6D18, 0, .jrm 0x18),
      (0x9102, 0, .rti 0 2),
      (0x911A, 0, .rti 1 10),
      (0xA1D2, 0, .swll 13 2),
      (0xB25F, 0, .jibom 5 15),
      (0xB820, 0, .sibo 2),
      (0xBFFD, 0, .tbf 15),
      (0xCD70, 0, .tb 7 0),
      (0xFFFF, 0xAAAA, .jrz 15 15 15 0xAAAA)] = true := by decide

/-- 30 R333: operation code 5F, fixed bits, forbidden operands. -/
theorem test_decode_refuses :
    noneDecodes [0x5F00, 0x5FFF, 0x0219, 0x0801, 0x1301, 0x26D8, 0x2C10, 0x2D46, 0x2B3D, 0x3D93, 0x401B, 0x42AB, 0x5C13, 0x5480,
      0x6482, 0x6801, 0x9140, 0x9184, 0x9E01, 0xB821, 0xBFF9] = true := by decide

/-- The table word of a two-word row: the literal in the upper sixteen bits. -/
theorem test_table_word : decodeTableWord 32 0xBEEF5C03 = some (.lrh 3 0xBEEF) ∧ decodeTableWord 16 0x4A12 = some (.aw 1 2) := by
  decide

/-- The encoder writes the words of 95. -/
theorem test_encode : encode (.lrh 3 0xBEEF) = [0x5C03, 0xBEEF] ∧ encode (.cbfu) = [0x579B] ∧ encode (.rti 3 2) = [0x9132] := by
  decide

/-! ### Vectors: transfers and shifts (95 section 2.3) -/

/-- T1 and T2: TII justifies its half and keeps the other. -/
theorem test_tii : yields (.tii 16 0) ((regs [(0, 0xFFFFFFFF)]).setInd 0x12#7) (fun t => t.rsu 0 == 0x0012FFFF) = true ∧
    yields (.tii 2 5) ((regs [(5, 0xAAAA5555)]).setJr 2 0x0410) (fun t => t.rsu 5 == 0xAAAA0410) = true := by decide

/-- T3 and T4: TOI takes the right half. -/
theorem test_toi : yields (.toi 2 5) (regs [(5, 0x12340500)]) (fun t => t.jr 2 == 0x0500) = true ∧
    yields (.toi 12 0) (regs [(0, 0x00001FFF)]) (fun t => t.cpc.tally == 0x1FFF) = true := by decide

/-- 41 R398, 47 R670: TW into RSU 12 clears the write tags, TW of RSU 12 to itself does nothing; by parameter it clears them too, or
neither does. -/
theorem test_tw_tags :
    let s := State.reset.setM6wt 5
    let u := fun p => ({ s with plat := { Platform.default with twTags := p } } : State)
    yields (.tw 2 12) s (fun t => t.cpc.m6wt == 0) = true ∧ yields (.tw 12 12) s (fun t => decide (t = s)) = true ∧
      yields (.tw 12 12) (u .always) (fun t => t.cpc.m6wt == 0) = true ∧
      yields (.tw 2 12) (u .never) (fun t => t.cpc.m6wt == 5) = true := by decide

/-- T5 to T8: a word, the tally, byte 0, digits. -/
theorem test_loads : yields (.tw 2 3) (regs [(2, 7), (3, 9)]) (fun t => t.rsu 3 == 7 && t.rsu 2 == 7) = true ∧
    yields (.ltrc 0x10) (State.reset.setTally 0xFFFF) (fun t => t.cpc.tally == 0x0010) = true ∧
    yields (.lb 0xA5) (regs [(0, 0x11223344)]) (fun t => t.rsu 0 == 0xA5223344) = true ∧
    yields (.lld 0 3) (regs [(0, 0x07000000)]) (fun t => t.rsu 0 == 0x37000000) = true ∧
    yields (.lrd 0 9) (regs [(0, 0x37000000)]) (fun t => t.rsu 0 == 0x39000000) = true := by decide

/-- T9 and T10: the literal loads void their literal. -/
theorem test_lrh : yields (.lrh 3 0xBEEF) (regs [(3, 0x12345678)]) (fun t => t.rsu 3 == 0x1234BEEF && t.pipe.skip == 1) = true ∧
    yields (.lrhc 10 0x0200) (regs [(10, 0xFFFFFFFF)]) (fun t => t.rsu 10 == 0x00000200 && t.pipe.skip == 1) = true := by decide

/-- T11, T13, T14, T17, T20: shifts without a carry in. -/
theorem test_shifts : yields (.swar 1 2) (regs [(1, 0x80000003)]) (fun t => t.rsu 2 == 0xC0000001 && t.indAt 4) = true ∧
    yields (.swll 1 2) (regs [(1, 0x80000001)]) (fun t => t.rsu 2 == 0x00000002 && t.indAt 4) = true ∧
    yields (.swll 1 2) (regs [(1, 0x40000000)]) (fun t => t.rsu 2 == 0x80000000 && !t.indAt 4 && signs t false false false) = true ∧
    yields (.swlr 1 2) (regs [(1, 0x00000003)]) (fun t => t.rsu 2 == 0x00000001 && t.indAt 4) = true ∧
    yields (.swlr 1 1) (regs [(1, 0x00000001)]) (fun t => t.rsu 1 == 0 && t.indAt 4) = true := by decide

/-- T15, T18, T19: shifts with a carry in, and the circular one. -/
theorem test_shifts_carry :
    yields (.swllc 1 2) ((regs [(1, 0x80000000)]).setIndAt 4 true) (fun t => t.rsu 2 == 0x00000001 && t.indAt 4) = true ∧
    yields (.swlrc 1 2) ((regs [(1, 0)]).setIndAt 4 true) (fun t => t.rsu 2 == 0x80000000 && !t.indAt 4) = true ∧
    yields (.swcl 1 2) (regs [(1, 0x80000000)]) (fun t => t.rsu 2 == 0x00000001 && !t.indAt 4) = true := by decide

/-- T21 and T22: halfword moves. -/
theorem test_halfwords :
    let s := regs [(1, 0x12345678), (2, 0xAABBCCDD), (9, 0x0000FFFF)]
    yields (.trhlh 9 9) s (fun t => t.rsu 9 == 0xFFFFFFFF) = true ∧ yields (.tlhlh 1 2) s (fun t => t.rsu 2 == 0x1234CCDD) = true ∧
    yields (.tlhrh 1 2) s (fun t => t.rsu 2 == 0xAABB1234) = true ∧ yields (.trhlh 1 2) s (fun t => t.rsu 2 == 0x5678CCDD) = true ∧
    yields (.trhrh 1 2) s (fun t => t.rsu 2 == 0xAABB5678) = true := by decide

/-- T23 to T26: byte and digit moves with their checks; bytes 4 and 8 are byte 0 of RSU 1 and RSU 2. -/
theorem test_digits :
    yields (.tb 7 0) (regs [(1, 0x0000005A)]) (fun t => t.rsu 0 == 0x5A000000) = true ∧
    yields (.tldr 4 8) (regs [(1, 0x47000000), (2, 0x30000000)]) (fun t => t.rsu 2 == 0x34000000 && t.indAt 6 && !t.indAt 5) = true ∧
    yields (.trdl 4 8) (regs [(1, 0x3C000000)]) (fun t => t.rsu 2 == 0xC0000000 && t.indAt 5 && !t.indAt 6) = true ∧
    yields (.trdr 4 8) (regs [(1, 0x35000000), (2, 0x90000000)]) (fun t => t.rsu 2 == 0x95000000 && !t.indAt 5 && !t.indAt 6) = true := by
  decide

/-! ### Vectors: memory (95 section 2.2) -/

/-- M2 and M4: a real fetch takes word address bits 24 to 3; LFA adds four. -/
theorem test_fetch :
    let s : State := { regs [(2, 0x00001000), (3, 0x00001007)] with mem := (State.reset.mem.setWord 0x401 0x01234567) }
    yields (.f 3) s (fun t => t.cpc.fetch == some { data := some { word := 0x01234567, status := .ok }, age := 0 }) = true ∧
    yields (.lfa 2 2) s (fun t => t.rsu 2 == 0x00001004) = true ∧ yields (.lfd 8 2) s (fun t => t.rsu 8 == 0x00000FFC) = true := by
  decide

/-- M5 to M7: the byte pointer is kept, the sum is modulo 2^32. -/
theorem test_augment : yields (.lfa 12 12) (regs [(12, 0x00000303)]) (fun t => t.rsu 12 == 0x00000307) = true ∧
    yields (.lfal 12 12) (regs [(12, 0xFFFFFFFE)]) (fun t => t.rsu 12 == 0x00000002) = true ∧
    yields (.lfd 8 12) (regs [(12, 0x00000002)]) (fun t => t.rsu 8 == 0xFFFFFFFE && t.rsu 12 == 2) = true := by decide

/-- M9 and M10: SL and a real address with bits 24 to 10 all ones reach the scratch pad. -/
theorem test_scratch_stores :
    yields (.sl 5 2) (regs [(2, 0x12345678)]) (fun t => t.mem.word (64 * 65536 - 128 + 5) == 0x12345678 && t.cpc.wtr == 0) = true ∧
    yields (.sr 15 6) (regs [(6, 0x00FFFE00), (7, 0xCAFE0001)]) (fun t => t.mem.word (64 * 65536 - 128) == 0xCAFE0001) = true := by
  decide

/-- M11: a partial store. -/
theorem test_store :
    yields (.s 12 4) { regs [(4, 0x00002000), (5, 0xAABBCCDD)] with mem := State.reset.mem.setWord 0x800 0x11223344 }
      (fun t => t.mem.word 0x800 == 0xAABB3344 && t.cpc.wtr == 12 && t.rsu 4 == 0x2000) = true := by decide

/-- 20 R182: byte 0 of a word has the lowest address. -/
theorem test_byte_order : yields (.sa 15 4) (regs [(4, 0x00002000), (5, 0xAABBCCDD)])
    (fun t => t.mem.byte 0x2000 == 0xAA && t.mem.byte 0x2003 == 0xDD && t.rsu 4 == 0x2004) = true := by decide

/-! ### Vectors: fields (95 section 2.4) -/

/-- F1 and F2: a field byte to a register. -/
theorem test_field_to_byte :
    yields (.tfb 3 11) (regs [(11, 0x41424344), (10, 2)]) (fun t => t.rsu 0 == 0x00000043 && t.indAt 6 && t.rsu 10 == 2) = true ∧
    yields (.tfbi 3 9) ((regs [(9, 0x31323334), (8, 3)]).setTally 5)
      (fun t => t.rsu 0 == 0x00000034 && t.rsu 8 == 0 && bitAt t.cpc.sr 2 && t.cpc.tally == 4) = true := by decide

/-- F3 and F4: a byte to MARS6. -/
theorem test_byte_to_field :
    yields (.tbf 3) (regs [(0, 0x0000005A), (12, 1)]) (fun t => t.rsu 13 == 0x005A0000 && t.cpc.m6wt == 4 && t.indAt 5 && t.indAt 6)
      = true ∧
    yields (.tbfi 3) ((regs [(0, 0x00000020), (12, 3)]).setTally 2)
      (fun t => t.rsu 13 == 0x00000020 && t.cpc.m6wt == 1 && t.rsu 12 == 0 && bitAt t.cpc.sr 4 && t.cpc.tally == 1) = true := by decide

/-- F5, F6 and F7: TFFI ends at a word boundary or with the tally, and a tally of 0 voids it. -/
theorem test_tffi :
    yields .tffi ((regs [(8, 2), (9, 0x11223344)]).setTally 9)
      (fun t => t.rsu 13 == 0x33440000 && t.rsu 8 == 0 && bitAt t.cpc.sr 2 && t.rsu 12 == 2 && t.cpc.m6wt == 12 && t.cpc.tally == 7)
      = true ∧
    yields .tffi ((regs [(8, 2), (9, 0x11223344)]).setTally 1)
      (fun t => t.rsu 13 == 0x33000000 && t.rsu 8 == 3 && t.rsu 12 == 1 && t.cpc.m6wt == 8 && t.cpc.tally == 0) = true ∧
    yields .tffi (regs [(9, 0x11223344)]) (fun t => decide (t = regs [(9, 0x11223344)])) = true := by decide

/-- F9 and F10: halfwords from and to a field. -/
theorem test_field_halfwords :
    yields (.tflhi 1 15) ((regs [(15, 0xAAAA5555), (14, 2)]).setTally 4)
      (fun t => t.rsu 1 == 0x55550000 && t.rsu 14 == 0 && bitAt t.cpc.sr 5 && t.cpc.tally == 2) = true ∧
    yields (.tlhfi 1) ((regs [(1, 0x12345678)]).setTally 2)
      (fun t => t.rsu 13 == 0x12340000 && t.cpc.m6wt == 12 && t.rsu 12 == 2 && t.cpc.tally == 0 && bitAt t.cpc.sr 4) = true := by decide

/-! ### Vectors: logic (95 section 2.5) -/

/-- L4 to L9, L16: words and bytes. -/
theorem test_logic :
    yields (.bow 1 2) (regs [(1, 0x0000FFFF), (2, 0xFFFF0000)]) (fun t => t.rsu 1 == 0xFFFFFFFF && signs t true false false) = true ∧
    yields (.baw 1 2) (regs [(1, 0x0F0F0F0F), (2, 0xF0F0F0F0)]) (fun t => t.rsu 1 == 0 && signs t false true false) = true ∧
    yields (.bew 1 1) (regs [(1, 0x0F0F0F0F)]) (fun t => t.rsu 1 == 0 && signs t false true false) = true ∧
    yields (.biw 1 2) (regs []) (fun t => t.rsu 1 == 0xFFFFFFFF && signs t true false false) = true ∧
    yields (.bab 0 4) (regs [(0, 0xF0000000), (1, 0x3C000000)]) (fun t => t.byteOp 0 == 0x30 && signs t false false true) = true ∧
    yields (.bob 0 4) (regs [(0, 0x80000000), (1, 0x01000000)]) (fun t => t.byteOp 0 == 0x81 && signs t true false false) = true ∧
    yields (.bib 0 4) (regs [(1, 0x0F000000)]) (fun t => t.byteOp 0 == 0xF0 && signs t true false false) = true := by decide

/-- L10 to L15: digits; I1 and I3 are free values, so only the byte is looked at. -/
theorem test_digit_logic :
    yields (.bald 0 3) (regs [(0, 0xA7000000)]) (fun t => t.byteOp 0 == 0x27) = true ∧
    yields (.bard 0 8) (regs [(0, 0xA7000000)]) (fun t => t.byteOp 0 == 0xA0) = true ∧
    yields (.bold 0 3) (regs [(0, 0x05000000)]) (fun t => t.byteOp 0 == 0x35) = true ∧
    yields (.bord 0 0) (regs [(0, 0x30000000)]) (fun t => t.byteOp 0 == 0x30) = true ∧
    yields (.beld 0 3) (regs [(0, 0x35000000)]) (fun t => t.byteOp 0 == 0x05) = true ∧
    yields (.berd 0 15) (regs [(0, 0x35000000)]) (fun t => t.byteOp 0 == 0x3A) = true := by decide

/-! ### Vectors: arithmetic (95 section 2.6) -/

/-- A1, A2, A3, A8: word sums. -/
theorem test_word_sums :
    yields (.aw 1 2) (regs [(1, 0x7FFFFFFF), (2, 1)])
      (fun t => t.rsu 1 == 0x80000000 && signs t true false false && !t.indAt 4 && t.indAt 5) = true ∧
    yields (.aw 1 2) (regs [(1, 0xFFFFFFFF), (2, 1)])
      (fun t => t.rsu 1 == 0 && signs t false true false && t.indAt 4 && !t.indAt 5) = true ∧
    yields (.aw 1 2) (regs [(1, 0x80000000), (2, 0x80000000)])
      (fun t => t.rsu 1 == 0 && signs t false true false && t.indAt 4 && t.indAt 5) = true ∧
    yields (.awc 1 2) ((regs [(1, 0xFFFFFFFF)]).setIndAt 4 true)
      (fun t => t.rsu 1 == 0 && signs t false true false && t.indAt 4 && !t.indAt 5) = true := by decide

/-- A4, A5, A7, A9, A10: word differences. -/
theorem test_word_differences :
    yields (.sw 1 2) (regs [(2, 1)]) (fun t => t.rsu 1 == 0xFFFFFFFF && signs t true false false && !t.indAt 4 && !t.indAt 5) = true ∧
    yields (.sw 1 2) (regs [(1, 0x80000000), (2, 1)])
      (fun t => t.rsu 1 == 0x7FFFFFFF && signs t false false true && t.indAt 4 && t.indAt 5) = true ∧
    yields (.sw 1 2) (regs [(1, 0x7FFFFFFF), (2, 0xFFFFFFFF)])
      (fun t => t.rsu 1 == 0x80000000 && signs t true false false && !t.indAt 4 && t.indAt 5) = true ∧
    yields (.swc 1 2) (regs []) (fun t => t.rsu 1 == 0xFFFFFFFF && signs t true false false && !t.indAt 4) = true ∧
    yields (.swc 1 2) (regs [(1, 5), (2, 3)]) (fun t => t.rsu 1 == 1 && signs t false false true && t.indAt 4) = true := by decide

/-- A11 to A14: the literal forms. -/
theorem test_literal_sums :
    yields (.awl 1 15) (regs [(1, 0xFFFFFFF8)]) (fun t => t.rsu 1 == 7 && signs t false false true && t.indAt 4 && !t.indAt 5) = true ∧
    yields (.swl 1 4) (regs [(1, 3)]) (fun t => t.rsu 1 == 0xFFFFFFFF && signs t true false false && !t.indAt 4) = true ∧
    yields (.acrl 5 3) { State.reset with pipe := { State.reset.pipe with ear := 0x0200 } } (fun t => t.rsu 5 == 0x0203) = true ∧
    yields (.awlni 1 1) (regs [(1, 0xFFFFFFFF)]) (fun t => t.rsu 1 == 0 && t.cpc.ind == 0) = true := by decide

/-- B1 to B6: bytes. -/
theorem test_byte_sums :
    yields (.ab 0 4) (regs [(0, 0xF0000000), (1, 0x20000000)]) (fun t => t.byteOp 0 == 0x10 && signs t false false true && t.indAt 4)
      = true ∧
    yields (.sb 0 4) (regs [(0, 0x10000000), (1, 0x20000000)]) (fun t => t.byteOp 0 == 0xF0 && signs t true false false && !t.indAt 4)
      = true ∧
    yields (.abc 0 4) ((regs [(0, 0xFF000000)]).setIndAt 4 true) (fun t => t.byteOp 0 == 0 && signs t false true false && t.indAt 4)
      = true ∧
    yields (.sbc 0 4) (regs []) (fun t => t.byteOp 0 == 0xFF && signs t true false false && !t.indAt 4) = true ∧
    yields (.sbl 0 1) (regs [(0, 0x01000000)]) (fun t => t.byteOp 0 == 0 && signs t false true false && t.indAt 4) = true := by decide

/-- D1, D3, D5, D6: packed decimal bytes. -/
theorem test_decimal_bytes :
    yields (.apdb 0 4) (regs [(0, 0x58000000), (1, 0x67000000)]) (fun t => t.byteOp 0 == 0x25 && t.indAt 3 && t.indAt 4 && t.indAt 6)
      = true ∧
    yields (.apdbc 0 4) ((regs [(0, 0x99000000)]).setIndAt 4 true) (fun t => t.byteOp 0 == 0 && t.indAt 2 && t.indAt 4) = true ∧
    yields (.spdb 0 4) (regs [(1, 0x01000000)]) (fun t => t.byteOp 0 == 0x99 && t.indAt 1 && !t.indAt 4) = true ∧
    yields (.spdbc 0 4) (regs [(0, 0x50000000), (1, 0x25000000)]) (fun t => t.byteOp 0 == 0x24 && t.indAt 4) = true := by decide

/-- D8 to D13: one byte step of the field sums (tally 1). -/
theorem test_field_sums :
    yields .audf ((regs [(9, 0x37000000), (11, 0x38000000)]).setTally 1)
      (fun t => t.rsu 13 == 0x35000000 && t.indAt 4 && !t.indAt 5 && !t.indAt 6) = true ∧
    yields .sudf (((regs [(9, 0x32000000), (11, 0x37000000)]).setTally 1).setIndAt 4 true)
      (fun t => t.rsu 13 == 0x35000000 && !t.indAt 4) = true ∧
    yields .apdf ((regs [(9, 0x45000000), (11, 0x55000000)]).setTally 1) (fun t => t.rsu 13 == 0 && t.indAt 4 && t.indAt 6) = true ∧
    yields .af ((regs [(8, 3), (9, 0x80), (10, 3), (11, 0x90), (12, 3)]).setTally 1)
      (fun t => t.rsu 13 == 0x10 && t.rsu 8 == 2 && t.cpc.tally == 0 && t.cpc.m6wt == 1 && t.indAt 4) = true ∧
    yields .sf (((regs [(9, 0x05000000), (11, 0x06000000)]).setTally 1).setIndAt 4 true)
      (fun t => t.rsu 13 == 0xFF000000 && !t.indAt 4) = true := by decide

/-- C1 to C5: orders. -/
theorem test_orders :
    yields (.cws 1 2) (regs [(1, 0x80000000), (2, 1)]) (fun t => signs t true false false) = true ∧
    yields (.cwu 1 2) (regs [(1, 0x80000000), (2, 1)]) (fun t => signs t false false true) = true ∧
    yields (.cbs 0 4) (regs [(0, 0x80000000), (1, 0x7F000000)]) (fun t => signs t true false false) = true ∧
    yields (.cbu 0 4) (regs [(0, 0x80000000), (1, 0x7F000000)]) (fun t => signs t false false true) = true := by decide

set_option maxRecDepth 2000 in
/-- C6, C8 to C10: field orders. -/
theorem test_field_orders :
    yields .cfu ((regs [(9, 0x41420000), (11, 0x41430000)]).setTally 2)
      (fun t => signs t true false false && t.rsu 8 == 2 && t.rsu 10 == 2 && t.cpc.tally == 0) = true ∧
    yields .cbfu ((regs [(9, 0xFF000000), (11, 0xFFFFFFFF)]).setTally 100)
      (fun t => t.rsu 10 == 0 && bitAt t.cpc.sr 3 && t.cpc.tally == 96 && t.indAt 2) = true ∧
    yields .cbfu ((regs [(9, 0xFF000000), (11, 0xFFFF00FF)]).setTally 100)
      (fun t => t.rsu 10 == 3 && !bitAt t.cpc.sr 3 && t.cpc.tally == 97 && t.indAt 3) = true ∧
    yields .cbfu ((regs [(9, 0xFF000000), (11, 0xFFFFFF00)]).setTally 100)
      (fun t => t.rsu 10 == 0 && !bitAt t.cpc.sr 3 && t.cpc.tally == 96 && t.indAt 3) = true := by decide

/-! ### Vectors: jumps (95 section 2.7) -/

/-- The machine after reset with an instruction of address `a` in the execute stage. -/
def placed (a : Half) : State :=
  { State.reset with pipe := { State.reset.pipe with ear := a, iar := a + 1, cr := a + 2, skip := 0 } }

/-- J1, J12 to J14, J18, J19, J25: targets. -/
theorem test_targets :
    yields (.jor 0 4) (regs [(4, 0x12340500)]) (fun t => t.pipe.crNext == some 0x0500 && t.pipe.skip == 2) = true ∧
    yields (.jrm 0x10) (placed 0x0005) (fun t => t.pipe.crNext == some 0xFFF5 && t.pipe.skip == 2) = true ∧
    yields (.djrp 0x20) (placed 0xFFF0) (fun t => t.pipe.crNext == some 0x0010 && t.pipe.skip == 0) = true ∧
    yields (.djrm 0x02) (placed 0x022A) (fun t => t.pipe.crNext == some 0x0228) = true ∧
    yields (.jibom 5 15) ((placed 0x021A).setIndAt 3 true) (fun t => t.pipe.crNext == some 0x020B && t.pipe.skip == 2) = true ∧
    yields (.djibom 1 0) ((placed 0x0212).setIndAt 1 true) (fun t => t.pipe.crNext == some 0x0212 && t.pipe.skip == 0) = true ∧
    yields (.link 2 3) (placed 0x0220) (fun t => t.jr 2 == 0x0223) = true ∧
    yields (.linkm 2 2) (placed 0x0220) (fun t => t.jr 2 == 0x021E) = true := by decide

/-- J6 to J10, J15, J16: JFA, JFAL, JIOL, DJTNZ. -/
theorem test_long_targets :
    yields .jfa ((((placed 0).setJr 7 0x1200).setSr 0x0005).setTally 4) (fun t => t.pipe.crNext == some 0x1290) = true ∧
    yields .jfa ((((placed 0).setJr 7 0x0300).setSr 0x0004).setTally 8187) (fun t => t.pipe.crNext == some 0x0310) = true ∧
    yields .jfa (((placed 0).setJr 7 0x0300).setSr 0x0004) (fun t => t.pipe.crNext == none) = true ∧
    yields .jfal (((placed 0x0300).setSr 0x0004).setTally 1) (fun t => t.jr 6 == 0x0301) = true ∧
    yields (.jiol 0 3 2 0x0800) ((placed 0x0400).setIndAt 2 true) (fun t => t.jr 3 == 0x0402 && t.pipe.crNext == some 0x0800) = true ∧
    yields (.djtnz 0) ((placed 0).setTally 1) (fun t => t.cpc.tally == 0 && t.pipe.crNext == some 0) = true := by decide

/-- J20 to J22: selectors and masks. -/
theorem test_conditions :
    let s := (placed 0).setIndAt 1 true
    yields (.sibo 1) s (fun t => t.pipe.skip == 1) = true ∧ yields (.sibo 2) s (fun t => t.pipe.skip == 0) = true ∧
    yields (.sibo 3) s (fun t => t.pipe.skip == 0) = true ∧ yields (.sibo 0) s (fun t => t.pipe.skip == 1) = true ∧
    yields (.srb3o 0 10) ((placed 0).setRsu 10 0x40) (fun t => t.pipe.skip == 0) = true ∧
    yields (.srb3o 0 10) ((placed 0).setRsu 10 0x02) (fun t => t.pipe.skip == 1) = true ∧
    yields (.jro 8 1 0 0x77) ((placed 0).setRsu 0 0xC1000000) (fun t => t.pipe.crNext == some 0x77) = true ∧
    yields (.jro 8 1 0 0x77) ((placed 0).setRsu 0 0x80000000) (fun t => t.pipe.crNext == none && t.pipe.skip == 1) = true := by decide

/-! ### Vectors: setup (95 section 2.8), miscellaneous (95 section 2.9) -/

/-- The BCT flow, the VRX target, SETIA. -/
theorem test_setup :
    yields (.jmpia 2 15) ((State.reset.setJr 2 0x0300).setCa1At 9 true) (fun t => t.pipe.crNext == some 0x0300 && t.pipe.skip == 2)
      = true ∧
    yields .jmpvc { State.reset with cpc := { Cpc.reset with sur3 := 3, sur1 := 0x2500 } }
      (fun t => t.pipe.crNext == some 0x3250 && t.cpc.tally == 0x0100) = true ∧
    yields (.setia 1 15) (regs [(15, 0x5A10C01C), (14, 2)])
      (fun t => t.cpc.sur2 == 0xC01C && t.cpc.optr2 == 0x6C && t.rsu 1 == 0x1C && t.rsu 14 == 0) = true := by decide

/-- The maps of the indicators and the setup transfers. -/
theorem test_setup_transfers :
    yields (.mii 0x03) (State.reset.setIndAt 1 true) (fun t => t.cpc.via.extractLsb' 0 2 == 1) = true ∧
    yields (.min 0x07) (State.reset.setIndAt 2 true) (fun t => t.cpc.via.extractLsb' 0 3 == 2) = true ∧
    yields (.tsb 4) { regs [(4, 0x12345678)] with cpc := { (regs [(4, 0x12345678)]).cpc with sur1 := 0x92F0 } }
      (fun t => t.rsu 4 == 0x123400F0) = true ∧
    yields (.tsldc 4) { State.reset with cpc := { Cpc.reset with sur1 := 0x1A35 } } (fun t => t.rsu 4 == 3) = true ∧
    yields (.tsrdc 4) { State.reset with cpc := { Cpc.reset with sur1 := 0x1A35 } } (fun t => t.rsu 4 == 5) = true ∧
    yields (.setsx 4) { State.reset with cpc := { Cpc.reset with sur2 := 0x8001 } } (fun t => t.rsu 4 == 0xFFFF8001) = true := by decide

/-- SC and RC on `CA1`, the unpacks, SCO and RIZ. -/
theorem test_misc :
    yields (.sc 0x02) State.reset (fun t => t.ca1At 10) = true ∧
    yields (.rc 0x08) (State.reset.setCa1 0xFF) (fun t => !t.ca1At 12 && t.ca1At 11) = true ∧
    yields (.upkl 0 4) (regs [(0, 0x47000000)]) (fun t => t.byteOp 4 == 0x34) = true ∧
    yields (.upkl 0 4) (regs [(0, 0xD7000000)]) (fun t => t.byteOp 4 == 0x2D) = true ∧
    yields (.upkr 0 4) (regs [(0, 0x4B000000)]) (fun t => t.byteOp 4 == 0x2B) = true ∧
    yields .riz (State.reset.setInd 0x7F) (fun t => t.cpc.ind == 0x47) = true := by decide

/-- 47 R680: three RTIs with `ESC` 01 leave the oldest address to `CR` first and one slot voided at the end. -/
theorem test_rti :
    let s := (State.reset.setFifo 0x0120 0x0121 0x0122).setCa1 0x44
    yields (.rti 0 0) s (fun t => t.pipe.crNext == some 0x0120 && t.cpc.eari == 0x0121 && t.cpc.cri == 0x0120) = true ∧
    yields (.rti 0 2) s (fun t => t.cpc.fifoRun && t.pipe.skip == 1) = true := by decide

/-! ### Vectors: translation and traps (95 sections 2.10, 2.11) -/

/-- The entry of vectors V1 to V16 in a 32-bit, non-privileged machine with translation on. -/
def mappedState : State :=
  let s : State := (regs [(1, 0x12345400), (2, 0xF02AFF00)]).setCa1At 12 true
  let s : State := { s with atc := { s.atc with ca2 := 0x0010 } }
  match exec (.toe 18 1) s with
  | .next t =>
    match exec (.toe 19 2) t with
    | .next u => u
    | _ => t
  | _ => s

/-- V1: the real address of a hit and what it leaves in `RAR` and `VARB`. -/
theorem test_translation :
    (match exec (.f 3) (mappedState.setRsu 3 0x123454A8) with
      | .next t => t.atc.rar.extractLsb' 0 24 == 0x2AFCA8 && t.atc.varb == 0x123454A8 && t.atc.ita == 0x8000
      | _ => false) = true := by decide

/-- V6 and V8: the first write to a page and a forbidden execute fetch post `ITA.9` and `ITA.11`. -/
theorem test_translation_aborts :
    yields (.s 15 4) (mappedState.setRsu 4 0x123454A8) (fun t => t.atc.ita == 0x8100 && (t.entry 0).cp && t.cpc.sr.extractLsb' 6 10 == 0x15F#10)
      = true ∧
    yields (.f 14) (mappedState.setRsu 14 0x123454A8) (fun t => t.atc.ita == 0x8400 && t.cpc.fetch == some { data := none, age := 0 })
      = true := by decide

/-- V15 and V17: PS purges, TVA translates. -/
theorem test_translation_commands :
    yields (.toe 20 4) (mappedState.setRsu 4 0x123457FF) (fun t => (t.entry 0).ir && !(t.entry 0).rr) = true ∧
    yields (.toe 23 4) (mappedState.setRsu 4 0x123454A9)
      (fun t => t.atc.varb == 0x123454A9 && t.atc.rar.extractLsb' 0 24 == 0x2AFCA9 && !(t.entry 0).cp) = true := by decide

/-- 95 section 2.10: a TOE of all ones writes the twelve bits of `ITA` that exist. -/
theorem test_ita : yields (.toe 9 1) (regs [(1, 0xFFFFFFFF)]) (fun t => t.atc.ita == 0xBFF8) = true := by decide

/-- X7: an interrupt is taken at 0002 and clears `NIE`. -/
theorem test_interrupt_entry :
    let s : State := { ((placed 0x0203).setCa1 0x02).setFifoRun true with
      atc := { Atc.reset with ita := 0 }, now := { Input.quiet with extInt := true } }
    (s.wanted == some .interrupt && (s.enter .interrupt).pipe.cr == 2 && (s.enter .interrupt).cpc.eari == 0x0204 &&
      (s.enter .interrupt).cpc.cri == 0x0206 && !(s.enter .interrupt).ca1At 10) = true := by decide

/-- 95 section 2.13: two voided slots follow reset, then the word of address 0 is in the execute stage. -/
theorem test_after_reset : steps State.reset (fun t => t.pipe.skip == 1 && t.pipe.cr == 1 &&
    steps t fun u => u.pipe.skip == 0 && u.pipe.cr == 2 && u.pipe.ear == 0) = true := by decide

/-- The step runs a word placed for it. -/
theorem test_step_runs : steps ((regs [(1, 5), (2, 6)]).withFetchWord 16 0x4A12) (fun t => t.rsu 1 == 11) = true := by decide

/-- The step refuses a word that is no instruction. -/
theorem test_step_refuses : stepRefuses (State.reset.withFetchWord 16 0x5F00) (.notAnInstruction .unassigned) = true := by decide

/-! ### Witnesses: states and operands that meet the hypotheses of the obligations, clause by clause -/

/-- `s` with the bytes of RSU 0 and RSU 1. -/
def pairState (a b : Word) : State := regs [(0, a), (1, b)]

/-- PackedByteSumsAndDifferences: decimal operands, the largest and the smallest. -/
theorem test_witness_packed_bytes : isPacked ((pairState 0x99000000 0).byteOp 0) = true ∧
    isPacked ((pairState 0x99000000 0).byteOp 4) = true := by decide

/-- InternalRegisters: the lowest and the highest register of each range, and each single one. -/
theorem test_witness_internal : ([0, 7, 9, 12, 17, 20, 24, 26, 28] : List (BitVec 5)).all isPlainIru = true := by decide

/-- InternalRegisters: the registers that are not there. -/
theorem test_witness_missing : ([13, 14, 15, 21, 22, 23, 25, 29, 30, 31] : List (BitVec 5)).all (fun n => !isIru n) = true := by decide

/-- A machine with an ATC and without a page size. -/
def noPageSize : State := { State.reset with atc := { Atc.reset with psr := 3 } }

/-- ExternalRegistersReadBack: an ATC, the registers at the ends of the list, a page size and none; no fetch outstanding, and register
messages that the ATC takes and that it cannot take. -/
theorem test_witness_external : (State.reset.cpc.fetch = none ∧ yields (.tie 17 1) State.reset (fun _ => true) = true ∧
      refuses (.tie 22 1) noPageSize .pageSizeInvalid = true ∧ yields (.toe 20 1) State.reset (fun _ => true) = true ∧
      refuses (.toe 23 1) noPageSize .pageSizeInvalid = true ∧ noPageSize.cpc.fetch = none) ∧
    isPlainEru 8 = true ∧ isPlainEru 21 = true ∧ State.reset.plat.atcPresent = true ∧
    State.reset.pageSizeOk = true ∧ noPageSize.pageSizeOk = false := by decide

/-- 11 R122: another device loads IMR, unlocks the Syndrome Register by reading it, and purges without REQS; its read of `VARB` refuses the
step where `PSR` is no page size. -/
theorem test_device_registers :
    delivers State.reset (.eruWrite 42 0x123F0) (fun t => t.atc.imr == 0x23F0) = true ∧
      delivers { State.reset with atc := { Atc.reset with synLock := true } } (.eruRead 49) (fun t => !t.atc.synLock) = true ∧
      delivers State.reset (.eruWrite 52 0) (fun t => !t.atc.reqsOnce) = true ∧
      yields (.toe 20 1) State.reset (fun t => t.atc.reqsOnce) = true ∧
      stepRefuses { noPageSize with inputs := [{ Input.quiet with messages := [.eruWrite 42 1, .eruRead 54] }] }
        .pageSizeInvalid = true := by decide

/-- AtcActsByItself: an ATC, a word that can be refreshed and one that cannot, in a memory in canonical form. -/
theorem test_witness_atc_acts :
    let s : State := { State.reset with mem := State.reset.mem.setErr 0 0x7F#7 }
    State.reset.plat.atcPresent = true ∧ State.reset.mem.wf = true ∧ s.mem.wf = true ∧ s.ca2At 7 = false ∧
      (eccDecode (State.reset.mem.word 0) (State.reset.mem.errAt 0)).2 ≠ .uncorrectable ∧
      (eccDecode (s.mem.word 0) (s.mem.errAt 0)).2 = .uncorrectable := by decide

/-- AtcActsByItself: the events of the end of a cycle, and none; a match of TOD, masked and not. -/
theorem test_atc_acts :
    let s : State := { State.reset with now := { Input.quiet with spint := true, privX0 := true, privX1 := true, eaci := true } }
    ((s.finish none).atc.ita == 0x8808 && (s.finish none).ca2At 1 && !(s.finish none).indAt 7) = true ∧
      ({ s with atc := { Atc.reset with imr := 0xFFFF } } : State).atcX1.atc.ita = 0x8000#16 := by decide

/-- AtcActsByItself: the fourth tick makes a refresh due, the third does not. -/
theorem test_ticks : (State.reset.tick 3).atc.refReq = false ∧ (State.reset.tick 4).atc.refReq = true ∧
    (State.reset.tick 4).atc.tod = 4 := by decide

/-- InterruptArrayAccess: an ATC, `BIN` full and empty, bit 4 of ITA set and a word without it. -/
theorem test_witness_interrupt_array : (bitAt ({ State.reset with atc := { Atc.reset with ita := 8 } } : State).atc.ita 4 = true ∧
      bitAt (State.reset.rsu 1) 4 = false) ∧ State.reset.plat.atcPresent = true ∧ State.reset.atc.binFull = false ∧
    ({ State.reset with atc := { Atc.reset with binFull := true } } : State).atc.binFull = true := by decide

/-- 11 R130, 22 R279: a device's message is dropped while `BIN` is full, the CPC's own too, unless the machine follows R279. -/
theorem test_bin :
    let s : State := { regs [(1, 7)] with atc := { Atc.reset with binFull := true, bin := 5 } }
    let u : State := { s with plat := { Platform.default with binGuardsCpc := false } }
    delivers s (.binWrite 9) (fun t => t.atc.bin == 5) = true ∧ delivers u (.eruWrite 46 9) (fun t => t.atc.bin == 5) = true ∧
      delivers s (.eruRead 46) (fun t => !t.atc.binFull) = true ∧ yields (.toe 14 1) s (fun t => t.atc.bin == 5 && !bitAt t.atc.ita 5) = true ∧
      yields (.toe 14 1) u (fun t => t.atc.bin == 7 && bitAt t.atc.ita 5) = true ∧
      yields (.tie 14 2) s (fun t => t.rsu 2 == 5 && !t.atc.binFull) = true := by decide

/-- The machine after reset with the first `n` entries of the associative memory referenced. -/
def referenced (n : Nat) : State :=
  { State.reset with atc := { Atc.reset with am := Vector.ofFn fun i => { AmEntry.empty with rr := decide (i.val < n) } } }

/-- AssociativeMemoryCommands: the first entry, the last but one and the last to be filled; filling the last one resets all. -/
theorem test_witness_associative : State.reset.plat.atcPresent = true ∧ State.reset.pageSizeOk = true ∧ State.reset.lru = 0 ∧
    State.reset.lastReference 0 = false ∧ (referenced 14).lru = 14 ∧ (referenced 14).lastReference 14 = false ∧
    (referenced 15).lru = 15 ∧ (referenced 15).pageSizeOk = true ∧ (referenced 15).lastReference 15 = true ∧
    State.reset.plat.pdLayout = PdLayout.default ∧ State.reset.atc.rrResetting = false ∧
    ({ State.reset with atc := { Atc.reset with rrResetting := true } } : State).atc.rrResetting = true := by decide

/-- ScratchPadThroughPointers: the first and the last number, memory in canonical form, a readable word. -/
theorem test_witness_scratch : (0 : BitVec 5).toNat ≤ 6 ∧ (6 : BitVec 5).toNat ≤ 6 ∧ State.reset.mem.wf = true ∧
    State.reset.Readable (State.reset.scratchWord (State.reset.entryOf 0 true)) ∧
    State.reset.Readable (State.reset.scratchWord (State.reset.entryOf 6 true)) := by decide

/-- PortsAndBreakpointHardware: no hardware; hardware at another port; hardware with the bits at both ends of the word; J05 = 1 and an
empty Breakpoint RAM. -/
theorem test_witness_ports :
    let p := { Platform.default with bkptHw := true, mcrPort := 63, mcrEnableBit := 1, mcrTrapBit := 32 }
    State.reset.plat.bkptHw = false ∧ p.mcrPort ≠ 0 ∧ p.bkptHw = true ∧ 1 ≤ p.mcrEnableBit ∧ p.mcrEnableBit ≤ 32 ∧
      1 ≤ p.mcrTrapBit ∧ p.mcrTrapBit ≤ 32 ∧ p.mcrEnableBit ≠ p.mcrTrapBit ∧
      bitAt (3 : Lit4) 1 = true ∧ Table.canonical false State.reset.bkpt.ram = true := by decide

/-- RealAndScratchPadStores: tags of 0000 from `M6WT`; a partial and a full store to the highest installed word; a word beyond a
memory of one bank; translation off. -/
theorem test_witness_stores :
    let s := regs [(4, 0x00FFFDFC)]
    let t : State := { s with plat := { Platform.default with memBanks := 1 } }
    s.cpc.m6wt = 0 ∧ s.ca1At 12 = false ∧ s.mem.wf = true ∧ s.beyond (s.realTarget (s.rsu 4)) = false ∧
      s.Readable (s.physical (s.realTarget (s.rsu 4))) ∧ t.beyond (t.realTarget (t.rsu 4)) = true ∧ (15 : Lit4) ≠ 0 := by decide

/-- The first word beyond a memory of one bank is beyond it, the last one is not. -/
theorem test_witness_beyond :
    let s : State := { regs [(4, 0x00040000), (5, 0x0003FFFC)] with plat := { Platform.default with memBanks := 1 } }
    s.beyond (s.realTarget (s.rsu 4)) = true ∧ s.beyond (s.realTarget (s.rsu 5)) = false := by decide

/-- RealAndScratchPadStores, RealFetches: an MRR with AT = 0 where it is real, that stores and that fetches; on machines where the
all ones address needs bit 32, one without it. -/
theorem test_witness_real_repeat :
    let s : State := { State.reset.setSr 0x4A40 with plat := { Platform.default with mrrIgnoresAt := false } }
    let t : State := { regs [(4, 0x00FFFE00)] with plat := { Platform.default with allOnesMarked := false, memBanks := 1 } }
    s.ca1At 12 = false ∧ s.plat.mrrIgnoresAt = false ∧ s.cpc.sr.extractLsb' 14 2 = 1#2 ∧ s.cpc.sr.extractLsb' 6 4 ≠ 0#4 ∧
      (s.setSr 0).cpc.sr.extractLsb' 14 2 ≠ 1#2 ∧ (t.realTarget (t.rsu 4)).scratch = false ∧
      t.beyond (t.realTarget (t.rsu 4)) = true := by decide

/-- RealAndScratchPadStores, RealFetches: a word whose error is corrected and one that is lost; messages of a device to a word, to the
scratch pad and beyond. -/
theorem test_witness_device :
    let s : State := { State.reset with plat := { Platform.default with memBanks := 1 } }
    let c : State := { s with mem := s.mem.setErr 0 1#7 }
    let l : State := { s with mem := s.mem.setErr 0 0x7F#7 }
    (c.mem.wf = true ∧ ¬c.Lost 0 ∧ ¬c.Readable 0 ∧ l.mem.wf = true ∧ l.Lost 0) ∧
      (1 : Digit) ≠ 0 ∧ s.beyond (messageTarget 0) = false ∧ s.beyond (messageTarget 0x80000000) = false ∧
      s.beyond (messageTarget 0x00040000) = true ∧ s.plat.atcPresent = true := by decide

/-- 20 R203: a partial store of a device keeps the other bytes and writes check bits that fit. -/
theorem test_device_store :
    let s : State := { State.reset with mem := (State.reset.mem.setWord 0x800 0x11223344).setErr 0x800 1#7 }
    delivers s (.realStore 0x2000 12 0xAABBCCDD) (fun t => t.mem.word 0x800 == 0xAABB3344 && t.mem.errAt 0x800 == 0) = true := by
  decide

/-- 20 R203, R209: the read of a partial store loads the Syndrome Register, also while it is locked; 11 R131, by parameter: not then. -/
theorem test_partial_read :
    let s : State := { State.reset with atc := { Atc.reset with synLock := true } }
    let u : State := { s with plat := { Platform.default with lockedReadLoads := false } }
    s.partialReadLoads = true ∧ u.partialReadLoads = false ∧ ({ u with atc := Atc.reset } : State).partialReadLoads = true ∧
      (u.storeWord { scratch := false, wa := 0 } 8 0).atc.syn = 0 := by decide

/-- 40 R373: an SR to 00FFFE00 reaches scratch pad word 0, with any memory installed. -/
theorem test_scratch_small : yields (.sr 15 6)
    { regs [(6, 0x00FFFE00), (7, 0xCAFE0001)] with plat := { Platform.default with memBanks := 2 } }
    (fun t => t.mem.word (2 * 65536 - 128) == 0xCAFE0001) = true := by decide

/-- RealFetches: an installed, readable word; a scratch pad word; translation off. -/
theorem test_witness_fetches :
    let s := regs [(4, 0x00FFFDFC)]
    (!s.beyond (s.realTarget (s.rsu 4))) = true ∧ s.Readable (s.physical (s.realTarget (s.rsu 4))) ∧
      s.Readable (s.scratchWord (63 : BitVec 6).toNat) ∧ s.ca1At 12 = false := by decide

/-- A fetched word that cannot be corrected is outstanding. -/
def badFetch : State :=
  { State.reset with cpc := { Cpc.reset with fetch := some { data := some { word := 5, status := .uncorrectable }, age := 0 } } }

/-- FetchedWordReceived: an uncorrectable word on the bus with error checking on; with K = 0001 and translation on; no word at all. -/
theorem test_witness_receive : badFetch.cpc.fetch = some { data := some { word := 5, status := .uncorrectable }, age := 0 } ∧
    badFetch.plat.atcPresent = true ∧ badFetch.ca2At 7 = false ∧ (badFetch.setCa1At 12 true).ca1At 12 = true ∧
    State.reset.cpc.fetch = none := by decide

/-- 40 R361, 70 R796: an RCV that the Power-Up trap releases before DIE has come takes the fetched word all the same. -/
theorem test_released_receive :
    let s : State := { badFetch with now := { Input.quiet with dieLate := true } }
    (s.setCa1 0).receiveWait (.rcv 1 0) = false ∧ s.wordOnBus = none ∧
      yields (.rcv 1 0) (s.setCa1 0) (fun t => t.rsu 1 == 5 && t.cpc.fetch.isNone) = true := by decide

/-- `mappedState` with every right granted on the page of entry 1, which is already changed, and its addresses in RSU 3, 4, 14. -/
def openState : State :=
  let s := ((mappedState.setRsu 3 0x123454A8).setRsu 4 0x123454A8).setRsu 14 0x123454A8
  s.setEntry 0 { s.entry 0 with pcn := 15, cp := true }

/-- `openState` with the control bits `ca2`, the mask `imr` and the address of entry 1 in `AMR`. -/
def monitorState (ca2 imr : Half) : State :=
  { openState with atc := { openState.atc with ca2 := ca2, imr := imr, amr := 0x123454A8 } }

set_option maxRecDepth 4000 in
/-- TranslatedFetches: Read, Execute and Linkage fetches that go through, to a readable installed word. -/
theorem test_witness_translated_fetch :
    let s := openState
    s.ca1At 12 = true ∧ s.cpc.sr.extractLsb' 14 2 ≠ 1#2 ∧ s.Sends (virtualWord (s.rsu 3) 0) ∧
      ¬s.Stops (virtualWord (s.rsu 3) 0) 0 0 ∧ s.Sends (virtualWord (s.rsu 14) 3) ∧
      ¬s.Stops (virtualWord (s.rsu 14) 3) 3 0 ∧ s.Sends (virtualWord (s.rsu 3) 2) ∧
      ¬s.Stops (virtualWord (s.rsu 3) 2) 2 0 ∧ s.landing (virtualWord (s.rsu 3) 0) < s.memWords ∧
      s.Readable (s.landing (virtualWord (s.rsu 3) 0)) := by
  intros; and_intros <;> decide +revert

set_option maxRecDepth 4000 in
/-- TranslatedFetches, the modes: Virtual Equals Real, with an invalid page size; a monitor that is on and not met; a masked violation;
MRR with AT = 0 where it is virtual. -/
theorem test_witness_fetch_modes :
    let ver : State := { openState with atc := { openState.atc with ca2 := 0x0110, psr := 3 } }
    let mon := monitorState 0x0012 0
    let shut := (monitorState 0x0010 0x0400).setEntry 0 { openState.entry 0 with pcn := 0 }
    let off := State.reset
    ver.Sends (virtualWord (ver.rsu 3) 0) ∧ ¬ver.Stops (virtualWord (ver.rsu 3) 0) 0 0 ∧
      ver.landing (virtualWord (ver.rsu 3) 0) = 0xD152A ∧
      mon.Sends (virtualWord (mon.rsu 3) 0) ∧ ¬mon.Stops (virtualWord (mon.rsu 3) 0) 0 0 ∧ mon.ca2At 2 = true ∧
      mon.Monitors (virtualWord (mon.rsu 3) 0) ∧
      shut.Sends (virtualWord (shut.rsu 3) 0) ∧ ¬shut.Stops (virtualWord (shut.rsu 3) 0) 0 0 ∧
      shut.permitted (shut.entry 0) 0 = false ∧ off.ca1At 12 = false ∧ off.plat.mrrIgnoresAt = true := by
  intros; and_intros <;> decide +revert

set_option maxRecDepth 4000 in
/-- TranslatedStores: a partial and a full store that go through, and the State Register of an MRR that repeats one. -/
theorem test_witness_translated_store :
    let s := openState
    let r := s.setSr 0x4A40
    let a := virtualWord (s.rsu 4) 1
    s.ca1At 12 = true ∧ (1 : Lit4) ≠ 0 ∧ s.Sends a ∧ ¬s.Stops a 1 1 ∧ ¬s.Stops a 1 15 ∧ s.mem.wf = true ∧
      s.landing a < s.memWords ∧ s.Readable (s.landing a) ∧ r.cpc.sr.extractLsb' 14 2 = 1#2 ∧ r.cpc.sr.extractLsb' 6 4 ≠ 0#4 ∧
      r.Sends (virtualWord (r.rsu 3) 1) ∧ ¬r.Stops (virtualWord (r.rsu 3) 1) 1 (r.cpc.sr.extractLsb' 6 4) := by
  intros; and_intros <;> decide +revert

set_option maxRecDepth 4000 in
/-- TranslatedStores, the modes: the first write to a page with the interrupt masked, and with its Access Violation masked too; the
monitored store, masked. -/
theorem test_witness_store_modes :
    let clean := (monitorState 0x0010 0x0100).setEntry 0 { openState.entry 0 with cp := false }
    let shut := (monitorState 0x0010 0x0500).setEntry 0 { openState.entry 0 with pcn := 0, cp := false }
    let mon := monitorState 0x0014 0x0040
    let a := virtualWord (openState.rsu 4) 1
    clean.Sends a ∧ ¬clean.Stops a 1 15 ∧ (clean.entry 0).cp = false ∧ shut.Sends a ∧ ¬shut.Stops a 1 15 ∧
      shut.LetsThrough 0 1 ∧ shut.permitted (shut.entry 0) 1 = false ∧ mon.Sends a ∧ mon.Arises a 1 15 7 ∧ ¬mon.Stops a 1 15 := by
  intros; and_intros <;> decide +revert

set_option maxRecDepth 2000 in
/-- TranslateCommand: one match, none, and two; after the sixteenth reference bit, and not. -/
theorem test_witness_translate :
    let s := openState.setRsu 3 0x123458A8
    let two := openState.setEntry 15 (openState.entry 0)
    openState.plat.atcPresent = true ∧ openState.pageSizeOk = true ∧ openState.atc.rrResetting = false ∧
      openState.hits (openState.rsu 3) = [0] ∧ s.hits (s.rsu 3) = [] ∧ two.hits (two.rsu 3) = [0, 15] ∧
      ({ State.reset with atc := { Atc.reset with rrResetting := true } } : State).pageSizeOk = true := by decide

set_option maxRecDepth 4000 in
/-- AbortedVirtualOperations: no page; a page that may not be read, linked to or written; a page not yet changed; nothing masked; the
State Register of an MRR that fetches and of one that stores. -/
theorem test_witness_aborts :
    let none := openState.setRsu 3 0x123458A8
    let shut := openState.setEntry 0 { openState.entry 0 with pcn := 0 }
    let clean := openState.setEntry 0 { openState.entry 0 with cp := false }
    let away := fun (pc : BitVec 2) => virtualWord (none.rsu 3) pc
    let here := fun (pc : BitVec 2) => virtualWord (openState.rsu 3) pc
    none.ca1At 12 = true ∧ none.cpc.sr.extractLsb' 14 2 ≠ 1#2 ∧ none.Sends (away 0) ∧ none.Stops (away 0) 0 0 ∧
      none.Sends (away 1) ∧ none.Stops (away 1) 1 15 ∧ (none.setSr 0x4A40).cpc.sr.extractLsb' 14 2 = 1#2 ∧
      (none.setSr 0x4A40).cpc.sr.extractLsb' 6 4 ≠ 0#4 ∧
      shut.Sends (here 0) ∧ shut.Stops (here 0) 0 0 ∧ shut.Sends (here 2) ∧ shut.Stops (here 2) 2 0 ∧
      shut.Sends (here 1) ∧ shut.Stops (here 1) 1 15 ∧
      clean.Sends (here 1) ∧ clean.Stops (here 1) 1 15 ∧ (clean.entry 0).cp = false := by
  intros; and_intros <;> decide +revert

set_option maxRecDepth 4000 in
/-- AbortedVirtualOperations, the monitors: the execute monitor, the monitored store, the F4X match, the store trace. -/
theorem test_witness_monitors :
    let here := fun (pc : BitVec 2) => virtualWord (openState.rsu 3) pc
    (monitorState 0x0012 0).Sends (here 3) ∧ (monitorState 0x0012 0).Stops (here 3) 3 0 ∧
      (monitorState 0x0014 0).Sends (here 1) ∧ (monitorState 0x0014 0).Stops (here 1) 1 15 ∧
      (monitorState 0x001C 0).Sends (here 1) ∧ (monitorState 0x001C 0).Stops (here 1) 1 15 ∧
      (monitorState 0x0090 0).Sends (here 1) ∧ (monitorState 0x0090 0).Stops (here 1) 1 15 := by
  intros; and_intros <;> decide +revert

/-- The field instructions: a tally of 0, of 1, and the largest one, with cycles left. -/
theorem test_witness_fields : State.reset.cpc.tally = 0#16 ∧ (State.reset.setTally 1).cpc.tally ≠ 0#16 ∧
    (State.reset.setTally 0xFFFF).cpc.tally ≠ 0#16 ∧ State.reset.pipe.fieldCycles ≠ 0 ∧ State.reset.pipe.fieldCycles ≠ 1 ∧
    (State.reset.withCycles 1).pipe.fieldCycles = 1 := by decide

/-- RunsBytes of FieldToFieldTransfers, FieldLogic, FieldSums, DecimalFieldSums, FieldOrders: a step that ends the instruction at
the edge of a word, and one that does not. -/
theorem test_witness_field_edges :
    let s := regs [(8, 1), (10, 1), (12, 1)]
    let e := regs [(8, 0), (10, 3), (12, 2)]
    e.crosses 9 true = true ∧ e.crosses 11 false = true ∧ s.crosses 9 true = false ∧ s.crosses 11 true = false ∧
      s.crosses 13 true = false ∧ s.crosses 9 false = false ∧ s.crosses 11 false = false ∧ s.crosses 13 false = false := by decide

/-- HalfwordTransfers: the source registers, tallies of 0, 1 and 2, even pointers at both halves, an odd one. -/
theorem test_witness_halfwords :
    let s := (regs [(10, 2)]).setTally 2
    isFieldSource 9 = true ∧ isFieldSource 11 = true ∧ isFieldSource 15 = true ∧ 2 ≤ s.cpc.tally.toNat ∧
      (s.setTally 1).cpc.tally = 1#16 ∧ ((regs [(10, 3)]).pointer 10).toNat % 2 = 1 ∧ (s.pointer 10).toNat % 2 = 0 ∧ s.pointer 12 = 0#2 ∧ (regs [(12, 2)]).pointer 12 = 2#2 ∧ State.reset.cpc.tally = 0#16 := by
  decide

/-- WholeWordFieldSum: the pointers at the right end, a tally of four, four cycles; and AF completes there. -/
theorem test_witness_whole_word :
    let s := (regs [(8, 3), (9, 0xFFFFFFFF), (10, 3), (11, 1), (12, 3)]).setTally 4
    (s.pointer 8 = 3#2 ∧ s.pointer 10 = 3#2 ∧ s.pointer 12 = 3#2 ∧ 4 ≤ s.cpc.tally.toNat ∧ 4 ≤ s.pipe.fieldCycles) ∧
      yields .af s (fun t => t.rsu 13 == 0 && t.indAt 4 && t.cpc.tally == 0) = true := by decide

/-- DecimalFieldSums: decimal bytes at the ends of the range. -/
theorem test_witness_decimal_fields : isPacked 0x00 = true ∧ isPacked 0x99 = true ∧ (0x39 : Byte).toNat % 16 ≤ 9 ∧
    (0x30 : Byte).toNat % 16 ≤ 9 := by decide

/-- FieldOrders: equal bytes and unequal ones. -/
theorem test_witness_field_orders :
    let s := regs [(9, 0x41420000), (11, 0x41430000)]
    s.fbyte 9 = s.fbyte 11 ∧ (s.setRsu 8 1).fbyte 9 ≠ (s.setRsu 10 1).fbyte 11 := by decide

/-- UnconditionalJumps: no breakpoint hardware; J05 = 0 on a machine with it; a fetched word on the bus. -/
theorem test_witness_jumps : State.reset.plat.bkptHw = false ∧ bitAt (2 : Lit4) 1 = false ∧
    badFetch.cpc.fetch = some { data := some { word := 5, status := .uncorrectable }, age := 0 } ∧ badFetch.now.dieLate = false := by
  decide

/-- 45 R583: with the fetched word 5 on the bus JPMBN goes to the complement of 0005. -/
theorem test_jpmbn : yields .jpmbn badFetch (fun t => t.pipe.crNext == some 0xFFFA && t.pipe.skip == 2) = true ∧
    yields .djpmbn badFetch (fun t => t.pipe.crNext == some 0xFFFA) = true := by decide

/-- 45 R593, R586: K words ahead of 0100; 30 R328, by parameter: to the address in RSU[K]. -/
theorem test_pair_jumps :
    let s : State := { regs [(5, 0x77770200)] with pipe := { Pipe.reset with ear := 0x100 } }
    let u : State := { s with plat := { Platform.default with pairJumpsByRsu := true } }
    (yields (.jibo 12 5) (s.setCa1At 9 true) (fun t => t.pipe.crNext == some 0x105 && t.pipe.skip == 2) = true ∧
      yields (.djibz 15 5) s (fun t => t.pipe.crNext == some 0x105) = true) ∧
      yields (.jibo 12 5) (u.setCa1At 9 true) (fun t => t.pipe.crNext == some 0x200 && t.pipe.skip == 2) = true ∧
      yields (.djibz 15 5) u (fun t => t.pipe.crNext == some 0x200) = true := by decide

/-- IndicatorJumpsAndReturns, Skips: each kind of mask satisfied and not. -/
theorem test_witness_selectors : PairSays 0x80 12 true ∧ PairSays 0x40 12 true ∧ PairSays 0x80 14 true ∧ PairSays 0x40 13 true ∧
    PairSays 0xC0 15 true ∧ ¬PairSays 0x3F 12 true ∧ ¬PairSays 0x40 14 true ∧ ¬PairSays 0x80 15 true ∧ PairSays 0xFE 1 false ∧
    ¬PairSays 0x03 0 false := by unfold PairSays; decide

/-- MaskedLongJumps: an indicator under the mask that is 1, an empty mask. -/
theorem test_witness_masks : (bitAt ((8 : Lit4) ++ (0 : Lit4)) 8 = true ∧ (State.reset.setCa1At 9 true).indAt 8 = true) ∧
    (List.range 9).all (fun n => !bitAt ((0 : Lit4) ++ (0 : Lit4)) n) = true := by decide

/-- TallyFieldAndExternalJumps: a tally of 0 and of 1, the first and the last overflow flag, none, VPBSY asserted. -/
theorem test_witness_tally : State.reset.cpc.tally = 0#16 ∧ (State.reset.setTally 1).cpc.tally ≠ 0#16 ∧
    bitAt (State.reset.setSr 2).cpc.sr 2 = true ∧ bitAt (State.reset.setSr 16).cpc.sr 5 = true ∧
    (State.reset.cpc.sr &&& 0x1E#16) = 0#16 ∧
    ({ State.reset with pipe := { Pipe.reset with vpbsy := true } } : State).pipe.vpbsy = true := by decide

/-- IndicatorMaps: the enables each page allows, at both ends. -/
theorem test_witness_maps : mapEnablesIbm 0x00 = true ∧ mapEnablesIbm 0x0C = true ∧ mapEnablesIbm 0x20 = true ∧
    mapEnablesNvm 0x00 = true ∧ mapEnablesNvm 0x17 = true ∧ mapEnablesVrx 0x00 = true ∧ mapEnablesVrx 0x57 = true := by decide

/-- SetupJumps: the BCT flow, the pointer of MARS7 at each of its four places. -/
theorem test_witness_setup : (State.reset.setCa1At 9 true).ca1At 9 = true ∧ State.reset.ca1At 9 = false ∧
    (regs [(14, 0)]).pointer 14 = 0#2 ∧ ((regs [(14, 1)]).pointer 14).toNat % 2 = 1 ∧ (regs [(14, 2)]).pointer 14 = 2#2 ∧
    ((regs [(14, 3)]).pointer 14).toNat % 2 = 1 := by decide

/-- SetupAssists: the pointer of MARS7 even, at both halves, and odd. -/
theorem test_witness_assists : ((regs [(14, 0)]).pointer 14).toNat % 2 = 0 ∧ ((regs [(14, 2)]).pointer 14).toNat % 2 = 0 ∧
    ((regs [(14, 3)]).pointer 14).toNat % 2 = 1 := by decide

/-- 10 R59, by parameter: a SETNA of the RM format resets I6; 46 R651: it stays. -/
theorem test_setna_match (h : Config.nvmFormat 0 = .rm) :
    let s : State := State.reset.setIndAt 6 true
    let u : State := { s with plat := { Platform.default with setnaResets := true } }
    yields (.setna 1) s (fun t => t.indAt 6) = true ∧ yields (.setna 1) u (fun t => !t.indAt 6) = true := by
  refine ⟨?_, ?_⟩ <;>
    (unfold yields; simp only [exec, execSetna]; generalize hf : Config.nvmFormat _ = f
     obtain rfl : f = .rm := hf.symm.trans h
     decide)

/-- 42 R470, R471; 46 R633: a tally of 1 and odd pointers are refused; the order of the checks for a tally of 0. -/
theorem test_halfword_refusals : refuses (.tflhi 1 15) ((regs []).setTally 1) .halfwordTallyOne = true ∧
    refuses (.tfrhd 1 15) ((regs [(14, 1)]).setTally 2) .oddFieldPointer = true ∧
    yields (.tfrhd 1 15) (regs [(14, 1)]) (fun t => decide (t = regs [(14, 1)])) = true ∧
    refuses (.setia 1 15) (regs [(14, 3)]) .oddSetupPointer = true ∧ refuses (.setna 1) (regs [(14, 1)]) .oddSetupPointer = true := by
  decide

/-- 10 R67: a halfword put in RSU 13 by a field instruction sets its write tags. -/
theorem test_halfword_tags : yields (.tfrhi 13 9) ((regs [(9, 0x11223344)]).setTally 2)
    (fun t => t.rsu 13 == 0x1122 && t.cpc.m6wt == 3) = true := by decide

/-- BusCommands: no fetched word waiting. -/
theorem test_witness_bus : State.reset.cpc.fetch = none := by decide

/-- DecodeOfEncode: well-formed instructions of one word and of two. -/
theorem test_witness_encode : (Instr.lrh 3 0xBEEF).wellFormed = true ∧ (Instr.cbfu).wellFormed = true := by decide

/-- WordsThatDecode: a word that decodes; a state whose step meets operation code 5F. -/
theorem test_witness_decode :
    let s := State.reset.withFetchWord 16 0x5FFF
    let b := begun s
    decode 0x5C03 0xBEEF = .ok (.lrh 3 0xBEEF) ∧ begins s = true ∧ b.pipe.xr = 0x5F#8 ++ 0xFF#8 ∧ b.now.pmrst = false ∧
      b.ca1At 13 = false ∧ b.busWait = false ∧ b.pipe.skip = 0#2 := by decide

/-- The state a step executes in, when PMRST is negated. -/
def started (s : State) : State := { begun s with pipe := { (begun s).pipe with pmrstHeld := false } }

/-- StepRunsInstruction: AW after reset, nothing to wait for; its next state. -/
theorem test_witness_step :
    let b := started (State.reset.withFetchWord 16 0x4A12)
    begins (State.reset.withFetchWord 16 0x4A12) = true ∧ b.now.pmrst = false ∧ b.ca1At 13 = false ∧ b.pipe.skip = 0#2 ∧ decode b.pipe.xr b.pipe.ir = .ok (.aw 1 2) ∧
      b.busWait = false ∧ b.operationWait (.aw 1 2) = false ∧ b.receiveWait (.aw 1 2) = false ∧ b.hazard (.aw 1 2) = none ∧
      yields (.aw 1 2) b (fun _ => true) = true := by decide

/-- StepRunsInstruction: a store with tags 0000 after reset, which is refused. -/
theorem test_witness_step_refused :
    let b := started (State.reset.withFetchWord 16 0x1504)
    begins (State.reset.withFetchWord 16 0x1504) = true ∧ b.now.pmrst = false ∧ b.ca1At 13 = false ∧ b.pipe.skip = 0#2 ∧ decode b.pipe.xr b.pipe.ir = .ok (.s 0 4) ∧
      b.busWait = false ∧ b.operationWait (.s 0 4) = false ∧ b.receiveWait (.s 0 4) = false ∧ b.hazard (.s 0 4) = none ∧
      refuses (.s 0 4) b .noWriteTags = true := by decide

/-- StepRunsInstruction: an RCV directly after PS, which is refused though it would have to wait. -/
theorem test_witness_step_hazard :
    let s := State.reset.withFetchWord 16 0x3D10
    let p : State := { s with pipe := { s.pipe with prev := some (prevOf (.toe 20 1) s s) } }
    let b := started p
    begins p = true ∧ b.now.pmrst = false ∧ b.ca1At 13 = false ∧ b.busWait = false ∧ b.pipe.skip = 0#2 ∧ decode b.pipe.xr b.pipe.ir = .ok (.rcv 1 0) ∧
      b.hazard (.rcv 1 0) = some .atcBusyHazard ∧ stepRefuses p .atcBusyHazard = true := by decide

/-- A machine whose only trap bit is clear, with `w` to execute and the input `i` to come. -/
def waitingState (w : Nat) (i : Input) : State :=
  { State.reset.withFetchWord 16 w with atc := { Atc.reset with ita := 0 }, inputs := [i] }

/-- VoidedSlotsAndWaits: the first cycle after reset, with TI = 1; an FR in the interpret stage behind AW, and behind a voided slot, with
BAV negated; an FR in the execute stage while an operation runs; an RCV without a word. -/
theorem test_witness_waits :
    let b := begun State.reset
    let w := waitingState 0x4A12 { Input.quiet with bavNegated := true }
    let g := started { w with pipe := { w.pipe with ir := 0x0303 } }
    let v := started { w with pipe := { w.pipe with ir := 0x0303, skip := 1 } }
    let d := waitingState 0x0303 { Input.quiet with dieLate := true }
    let e : State := { d with pipe := { d.pipe with ir := 0x4A12 }, atc := { d.atc with seq := .realFetch } }
    let f := started e
    let r := started (waitingState 0x3D10 Input.quiet)
    ([State.reset, { w with pipe := { w.pipe with ir := 0x0303 } }, { w with pipe := { w.pipe with ir := 0x0303, skip := 1 } }, e,
        waitingState 0x3D10 Input.quiet].all begins = true) ∧
      (b.now.pmrst = false ∧ b.ca1At 13 = false ∧ b.busWait = false ∧ b.pipe.skip ≠ 0#2 ∧ b.wanted = none) ∧
      (g.now.pmrst = false ∧ g.ca1At 13 = false ∧ decode g.pipe.ir (g.isuAt g.pipe.cr) = .ok (.fr 3) ∧ needsBus (.fr 3) = true ∧
        g.pipe.skip = 0#2 ∧ decode g.pipe.xr g.pipe.ir = .ok (.aw 1 2) ∧ g.now.bavNegated = true ∧ g.atc.reqs = false ∧
        g.atc.busy2 = false ∧ v.pipe.skip = 1#2 ∧ v.now.bavNegated = true) ∧
      (f.now.pmrst = false ∧ f.ca1At 13 = false ∧ f.busWait = false ∧ f.pipe.skip = 0#2 ∧
        decode f.pipe.xr f.pipe.ir = .ok (.fr 3) ∧ f.atc.seq ≠ .idle ∧ f.hazard (.fr 3) = none) ∧
      (r.now.pmrst = false ∧ r.ca1At 13 = false ∧ r.busWait = false ∧ r.pipe.skip = 0#2 ∧
        decode r.pipe.xr r.pipe.ir = .ok (.rcv 1 0) ∧ isRcv (.rcv 1 0) = true ∧ r.wordOnBus = none ∧ r.wanted = none ∧
        r.hazard (.rcv 1 0) = none) := by decide

/-- 10 R49: while the FR in the interpret stage needs the bus and BAV is negated the AW in front of it does not execute; when BAV comes
back both do. -/
theorem test_bus_wait :
    let w := waitingState 0x4A12 { Input.quiet with bavNegated := true }
    let s : State := { (w.setRsu 1 5).setRsu 2 6 with pipe := { w.pipe with ir := 0x0303 } }
    steps s (fun t => t.rsu 1 == 5 && t.pipe.xr == 0x4A12 && t.pipe.ir == 0x0303 &&
      steps t fun u => u.rsu 1 == 11 && u.pipe.xr == 0x0303) = true := by decide

/-- 11 R141: after a virtual full store its real state holds the bus for a cycle; an SR in it waits. -/
theorem test_operation_waits :
    let s := waitingState 0x14F6 Input.quiet
    let s : State := { s with atc := { s.atc with seq := .virtualFullStore, seqGoesOn := true, cpcInitiated := true } }
    let t : State := { s with atc := { s.atc with seqGoesOn := false } }
    (started s).operationWait (.sr 15 6) = true ∧ steps s (fun u => u.pipe.xr == 0x14F6 && u.atc.seq == .realFullStore) = true ∧
      (started t).operationWait (.sr 15 6) = false := by decide

/-- 11 R140: a match of TOD is not posted while a fetch of a device runs, nor in the cycle of a virtual fetch that was stopped. -/
theorem test_tod_inhibited :
    let s := fun (q : AtcSeq) => ({ State.reset with atc := { Atc.reset with ita := 0, seq := q } } : State)
    ((s .realFetch).atcX1.atc.ita = 0 ∧ (s .virtualFetch).atcX1.atc.ita = 0) ∧
      (s .idle).atcX1.atc.ita = 8 ∧ (s .realFullStore).atcX1.atc.ita = 8 := by decide

/-- 60 R704: a TOE that clears bit 4 of ITA while the match holds: the bit is 0 at the end of its cycle, and 1 after the next X1. -/
theorem test_tod_cleared :
    let w := waitingState 0x1091 Input.quiet
    let s : State := { w with atc := { w.atc with ita := 8 }, pipe := { w.pipe with ir := 0x4A12 } }
    steps s (fun t => !bitAt t.atc.ita 4 && steps t fun u => bitAt u.atc.ita 4) = true := by decide

/-- 21 R232: PMRST clears every RR bit; 11 R143, by parameter: it keeps them. -/
theorem test_reset_references :
    let r := (Atc.reset.am.setIfInBounds 0 { AmEntry.empty with rr := true })
    let s : State := { State.reset with atc := { Atc.reset with am := r } }
    (s.resetActions.entry 0).rr = false ∧
      (({ s with plat := { Platform.default with resetClearsRr := false } } : State).resetActions.entry 0).rr = true := by decide

/-- 46 R637: I6 takes the match of a JMPIC in the cycle after it; a TII 16 directly behind it still reads the old I6. -/
theorem test_late_match :
    let s := (waitingState 0x2101 Input.quiet).matchLater true
    steps s (fun t => !bitAt (leftHalf (t.rsu 1)) 6 && t.indAt 6) = true ∧
      yields .jmpic State.reset (fun t => !t.indAt 6 && t.pipe.lateMatch.isSome) = true := by decide

/-- 70 R796: a bus wait in the cycle of a TII 16 directly behind a JMPIC does not change what it reads: still the old I6. -/
theorem test_late_match_waits :
    let w := (waitingState 0x2101 { Input.quiet with bavNegated := true }).matchLater true
    steps { w with pipe := { w.pipe with ir := 0x0303 } } (fun t => !t.indAt 6 && t.pipe.xr == 0x2101 &&
      steps t fun u => !bitAt (leftHalf (u.rsu 1)) 6 && u.indAt 6) = true := by decide

/-- 20 R212: the memory error trap holds a refresh off, the Power-Up trap does not; 11 R141, by parameter: it does too. -/
theorem test_refresh_may_start :
    let s := fun (n : Nat) => ({ State.reset with
      atc := { Atc.reset with ita := itaBit n true, refReq := true }, now := { Input.quiet with refresh := true } } : State)
    (s 14).refreshMayStart = false ∧ (s 16).refreshMayStart = true ∧
      ({ s 16 with plat := { Platform.default with trapsHoldRefresh := true } } : State).refreshMayStart = false := by decide

/-- PipelineMovesOn: a jump and none; the FIFO running, moved by the instruction, and halted. -/
theorem test_witness_pipeline : (State.reset.jumpDelayed 7).pipe.crNext = some 7 ∧ State.reset.pipe.crNext = none ∧
    (State.reset.setFifoRun true).cpc.fifoRun = true ∧ State.reset.pipe.fifoShifted = false ∧ State.reset.cpc.fifoRun = false := by
  decide

/-- EntrySavesTheFlow: the FIFO running and halted. -/
theorem test_witness_entry : ((State.reset.setFifoRun true).enter .trap).cpc.fifoRun = false ∧
    (State.reset.setFifoRun true).cpc.fifoRun = true ∧ State.reset.cpc.fifoRun = false := by decide

/-- ReturnStep: a restart with `ESC` 3 and with another one; no restart. -/
theorem test_witness_return : bitAt (14 : Lit4) 2 = true ∧ State.reset.wanted = none ∧
    (State.reset.setCa1 0xC4).cpc.ca1.toNat / 64 = 3 ∧ refuses (.rti 0 2) (State.reset.setCa1 0xC4) .skipCountThree = true ∧
    State.reset.cpc.ca1.toNat / 64 ≠ 3 ∧ bitAt (1 : Lit4) 2 = false ∧ bitAt (1 : Lit4) 1 = true ∧ bitAt (2 : BitVec 2) 1 = false ∧
    State.reset.plat.bkptHw = false ∧ bitAt (1 : BitVec 2) 1 = true ∧
    ({ State.reset with plat := { Platform.default with bkptHw := true } } : State).plat.bkptHw = true ∧
    Table.canonical false State.reset.bkpt.ram = true := by decide

/-- ReturnUndoesEntry: a running FIFO, no breakpoint hardware, the wires negated; the controls 0, 1, 2 and 0, 0, 3. -/
theorem test_witness_undo :
    let t : State := { State.reset.setFifoRun true with atc := { Atc.reset with ita := 0 } }
    t.cpc.fifoRun = true ∧ t.pipe.skip ≠ 3#2 ∧ t.plat.bkptHw = false ∧ t.trapPin = false ∧ t.intPin = false ∧
      bitAt (1 : Lit4) 2 = false ∧ bitAt (2 : Lit4) 2 = true ∧ bitAt (1 : Lit4) 1 = true ∧ bitAt (0 : Lit4) 2 = false ∧
      bitAt (3 : Lit4) 2 = true ∧ bitAt (3 : Lit4) 1 = true := by decide

/-- ResetState: PMRST still asserted; PMRST newly asserted on a voided slot with the FIFO running, and the step answers. -/
theorem test_witness_reset :
    let s : State := { State.reset with inputs := [{ Input.quiet with pmrst := true }] }
    let u : State := { s with cpc := { Cpc.reset with fifoRun := true }, pipe := { Pipe.reset with pmrstHeld := false } }
    let b := begun s
    let c := begun u
    begins s = true ∧ b.now.pmrst = true ∧ b.pipe.pmrstHeld = true ∧ b.plat.atcPresent = true ∧
      begins u = true ∧ c.now.pmrst = true ∧ c.pipe.pmrstHeld = false ∧ c.ca1At 13 = false ∧ c.pipe.skip ≠ 0#2 ∧
      c.cpc.fifoRun = true ∧ c.pipe.fifoShifted = false ∧ steps u (fun _ => true) = true := by decide

/-- StepKeepsInvariant: the invariant holds after reset, and the step from there answers a next state. -/
theorem test_witness_invariant : State.reset.Inv ∧ steps State.reset (fun _ => true) = true := by decide

end Sys2Proof.Tests
end

section
/-! The word sums with a literal that change no indicator (44 R540, R541). -/

namespace Sys2Proof.Machine

/-- A first word written as its operation code and its two operand digits decodes by these digits alone (30 R324). -/
theorem decode_of_decodeDigits {c : Byte} {j k : Digit} {l : Half} {i : Instr}
    (h : decodeDigits (leftDigit c) (rightDigit c) j k l = .ok i) (hi : i.wellFormed = true) :
    decode (c ++ j ++ k) l = .ok i := by
  have hw : (c ++ j ++ k).toNat = (c.toNat * 2 ^ 4 + j.toNat) * 2 ^ 4 + k.toNat := by rw [toNat_join, toNat_join]
  have hc : c.toNat < 2 ^ 8 := c.isLt
  have hj : j.toNat < 2 ^ 4 := j.isLt
  have hk : k.toNat < 2 ^ 4 := k.isLt
  have dl : (c ++ j ++ k).extractLsb' 12 4 = leftDigit c :=
    BitVec.eq_of_toNat_eq (by rw [toNat_part, hw, toNat_leftDigit]; omega)
  have dr : (c ++ j ++ k).extractLsb' 8 4 = rightDigit c :=
    BitVec.eq_of_toNat_eq (by rw [toNat_part, hw, toNat_rightDigit]; omega)
  have dj : (c ++ j ++ k).extractLsb' 4 4 = j := BitVec.eq_of_toNat_eq (by rw [toNat_part, hw]; omega)
  have dk : (c ++ j ++ k).extractLsb' 0 4 = k := BitVec.eq_of_toNat_eq (by rw [toNat_part, hw]; omega)
  unfold decode
  rw [dl, dr, dj, dk, h]
  exact if_pos hi

/-- A literal of four bits keeps its value as a word. -/
theorem toNat_litWord (k : Lit4) : (litWord k).toNat = k.toNat :=
  BitVec.toNat_setWidth_of_le (by omega)

/-- The sum of a word and a literal, modulo 2^32. -/
theorem toNat_add_litWord (a : Word) (k : Lit4) : (a + litWord k).toNat = (a.toNat + k.toNat) % 2 ^ 32 := by
  rw [BitVec.toNat_add, toNat_litWord]

/-- The difference of a word and a literal, modulo 2^32. -/
theorem toNat_sub_litWord (a : Word) (k : Lit4) : (a - litWord k).toNat = (a.toNat + 2 ^ 32 - k.toNat) % 2 ^ 32 := by
  have hk : k.toNat < 2 ^ 4 := k.isLt
  rw [BitVec.toNat_sub, toNat_litWord]
  congr 1
  omega

/-- AWLNI is one register write (R540). -/
theorem exec_awlni (j : RsuNum) (k : Lit4) (s : State) :
    exec (.awlni j k) s = .next (s.setRsu j (s.rsu j + litWord k)) := rfl

/-- SWLNI is one register write (R541). -/
theorem exec_swlni (j : RsuNum) (k : Lit4) (s : State) :
    exec (.swlni j k) s = .next (s.setRsu j (s.rsu j - litWord k)) := rfl

/-- Settles O2: each of the two is one register write, whose frame holds every indicator. -/
theorem quietLiteralSums : Obligations.QuietLiteralSums := by
  intro j k l s
  constructor
  · refine ⟨decode_of_decodeDigits rfl rfl, _, exec_awlni j k s, ?_, s.frame_setRsu j _⟩
    rw [State.rsu_setRsu_same, toNat_add_litWord]
  · refine ⟨decode_of_decodeDigits rfl rfl, _, exec_swlni j k s, ?_, s.frame_setRsu j _⟩
    rw [State.rsu_setRsu_same, toNat_sub_litWord]

end Sys2Proof.Machine
end

section
/-! The controls of Control Array 1 and the indicators set and reset by name (47 R676 to R679). -/

namespace Sys2Proof.Machine

/-! ### Control Array 1 and the indicators -/

/-- A bit of Control Array 1 read after a write of the whole byte. -/
@[simp] theorem State.ca1At_setCa1 (s : State) (v : Byte) (n : Nat) : (s.setCa1 v).ca1At n = bitAt v (n - 8) := rfl

/-- I8 is the copy of `CA1.BCT`. -/
theorem State.indAt_eight (s : State) : s.indAt 8 = s.ca1At 9 := by
  unfold State.indAt State.indicators bitAt bit1
  rw [BitVec.getLsbD_append]
  simp

/-- I1 to I7 are the bits of `IND`. -/
theorem State.indAt_of_le_seven (s : State) {n : Nat} (h1 : 1 ≤ n) (h7 : n ≤ 7) : s.indAt n = bitAt s.cpc.ind n := by
  have hn : n - 1 < 7 := by omega
  unfold State.indAt State.indicators bitAt
  rw [BitVec.getLsbD_append, if_pos hn]

/-- A write of Control Array 1 leaves I1 to I7. -/
theorem State.indAt_setCa1 (s : State) (v : Byte) {n : Nat} (h1 : 1 ≤ n) (h7 : n ≤ 7) : (s.setCa1 v).indAt n = s.indAt n := by
  rw [State.indAt_of_le_seven _ h1 h7, State.indAt_of_le_seven _ h1 h7, State.setCa1_cpc]

/-- What a write of Control Array 1 does outside it: I8 follows bit 9, I1 to I7 and every other component stay. -/
theorem State.setCa1_spec (s : State) (v : Byte) :
    (s.setCa1 v).indAt 8 = (s.setCa1 v).ca1At 9 ∧ (∀ n, 1 ≤ n → n ≤ 7 → (s.setCa1 v).indAt n = s.indAt n) ∧
      { s.setCa1 v with cpc := { (s.setCa1 v).cpc with ca1 := s.cpc.ca1 } } = s :=
  ⟨State.indAt_eight _, fun _ h1 h7 => s.indAt_setCa1 v h1 h7, rfl⟩

/-- Bits set: those that were one or are one in the literal. -/
theorem State.ca1At_setCa1_or (s : State) (lit : Byte) (n : Nat) :
    (s.setCa1 (s.cpc.ca1 ||| lit)).ca1At n = true ↔ s.ca1At n = true ∨ bitAt lit (n - 8) = true := by
  rw [State.ca1At_setCa1, bitAt_or, Bool.or_eq_true, State.ca1At]

/-- Bits reset: those that were one and are zero in the literal stay one. -/
theorem State.ca1At_setCa1_and_not (s : State) (lit : Byte) {n : Nat} (h9 : 9 ≤ n) (h16 : n ≤ 16) :
    (s.setCa1 (s.cpc.ca1 &&& ~~~lit)).ca1At n = true ↔ s.ca1At n = true ∧ bitAt lit (n - 8) = false := by
  rw [State.ca1At_setCa1, bitAt_and, bitAt_not lit _ (by omega) (by omega), Bool.and_eq_true, Bool.not_eq_true', State.ca1At]

/-! ### Decoding -/

/-- A byte is its two digits. -/
theorem leftDigit_append_rightDigit (b : Byte) : leftDigit b ++ rightDigit b = b := by
  apply BitVec.eq_of_toNat_eq
  rw [toNat_join, toNat_leftDigit, toNat_rightDigit]
  omega

/-- A first word written as its operation code and a byte literal decodes by the literal's digits (30 R324). -/
theorem decode_of_decodeDigits_literal {c lit : Byte} {l : Half} {i : Instr}
    (h : decodeDigits (leftDigit c) (rightDigit c) (leftDigit lit) (rightDigit lit) l = .ok i) (hi : i.wellFormed = true) :
    decode (c ++ lit) l = .ok i := by
  have hw : c ++ lit = (c ++ leftDigit lit ++ rightDigit lit : Half) := by
    apply BitVec.eq_of_toNat_eq
    rw [toNat_join, toNat_join, toNat_join, toNat_leftDigit, toNat_rightDigit]
    omega
  rw [hw]
  exact decode_of_decodeDigits h hi

/-- Operation code 94 is SC with the byte literal of J and K (R676). -/
theorem decode_sc (lit : Byte) (l : Half) : decode (0x94#8 ++ lit) l = .ok (.sc lit) := by
  refine decode_of_decodeDigits_literal ?_ rfl
  calc decodeDigits (leftDigit 0x94) (rightDigit 0x94) (leftDigit lit) (rightDigit lit) l
      = .ok (.sc (leftDigit lit ++ rightDigit lit)) := rfl
    _ = .ok (.sc lit) := by rw [leftDigit_append_rightDigit]

/-- Operation code 95 is RC with the byte literal of J and K (R677). -/
theorem decode_rc (lit : Byte) (l : Half) : decode (0x95#8 ++ lit) l = .ok (.rc lit) := by
  refine decode_of_decodeDigits_literal ?_ rfl
  calc decodeDigits (leftDigit 0x95) (rightDigit 0x95) (leftDigit lit) (rightDigit lit) l
      = .ok (.rc (leftDigit lit ++ rightDigit lit)) := rfl
    _ = .ok (.rc lit) := by rw [leftDigit_append_rightDigit]

/-! ### The four instructions -/

/-- SC is one write of Control Array 1 (R676). -/
theorem exec_sc (lit : Byte) (s : State) : exec (.sc lit) s = .next (s.setCa1 (s.cpc.ca1 ||| lit)) := rfl

/-- RC is one write of Control Array 1 (R677). -/
theorem exec_rc (lit : Byte) (s : State) : exec (.rc lit) s = .next (s.setCa1 (s.cpc.ca1 &&& ~~~lit)) := rfl

/-- SCO is one indicator write (R678). -/
theorem exec_sco (s : State) : exec .sco s = .next (s.setIndAt 4 true) := rfl

/-- RIZ is three indicator writes (R679). -/
theorem exec_riz (s : State) : exec .riz s = .next (((s.setIndAt 4 false).setIndAt 5 false).setIndAt 6 false) := rfl

/-- RIZ's three writes make I4, I5 and I6 zero. -/
theorem State.indAt_reset_four_five_six (s : State) {n : Nat} (h4 : 4 ≤ n) (h6 : n ≤ 6) :
    (((s.setIndAt 4 false).setIndAt 5 false).setIndAt 6 false).indAt n = false := by
  rw [State.indAt_setIndAt _ 6 n false (by omega) (by omega) (by omega),
    State.indAt_setIndAt _ 5 n false (by omega) (by omega) (by omega),
    State.indAt_setIndAt _ 4 n false (by omega) (by omega) (by omega)]
  obtain rfl | rfl | rfl : n = 4 ∨ n = 5 ∨ n = 6 := by omega
  · rfl
  · rfl
  · rfl

/-- RIZ's three writes change I4, I5 and I6 only. -/
theorem State.frame_reset_four_five_six (s : State) :
    Frame s (((s.setIndAt 4 false).setIndAt 5 false).setIndAt 6 false) [] [4, 5, 6] :=
  ((s.frame_setIndAt 4 false (by omega) (by omega)).trans (State.frame_setIndAt _ 5 false (by omega) (by omega))).trans
    (State.frame_setIndAt _ 6 false (by omega) (by omega))

/-- Settles O44: SC and RC are one write of Control Array 1 each, and differ in the byte written. -/
theorem controlsSetAndReset : Obligations.ControlsSetAndReset := by
  intro lit l s
  constructor
  · exact ⟨decode_sc lit l, _, exec_sc lit s, fun n _ _ => s.ca1At_setCa1_or lit n, s.setCa1_spec _⟩
  · exact ⟨decode_rc lit l, _, exec_rc lit s, fun _ h9 h16 => s.ca1At_setCa1_and_not lit h9 h16, s.setCa1_spec _⟩

/-- Settles O45: SCO and RIZ write indicators alone, one after the other. -/
theorem carrySetAndIndicatorsReset : Obligations.CarrySetAndIndicatorsReset := by
  intro l s
  constructor
  · have carry : (s.setIndAt 4 true).indAt 4 = true := by
      rw [State.indAt_setIndAt s 4 4 true (by omega) (by omega) (by omega), if_pos rfl]
    exact ⟨decode_of_decodeDigits (c := 0x9E) (j := 0) (k := 0) rfl rfl, _, exec_sco s, carry,
      s.frame_setIndAt 4 true (by omega) (by omega)⟩
  · exact ⟨decode_of_decodeDigits (c := 0x9F) (j := 0) (k := 0) rfl rfl, _, exec_riz s,
      s.indAt_reset_four_five_six (by omega) (by omega), s.indAt_reset_four_five_six (by omega) (by omega),
      s.indAt_reset_four_five_six (by omega) (by omega), s.frame_reset_four_five_six⟩

end Sys2Proof.Machine
end

section
/-! Decoding and encoding are inverse to each other (30 R325, R333). -/

namespace Sys2Proof.Machine

/-! ### Fields of a word -/

/-- The high part of a vector after another. -/
theorem extract_join_high {n m : Nat} (a : BitVec n) (b : BitVec m) : (a ++ b).extractLsb' m n = a := by
  apply BitVec.eq_of_toNat_eq
  rw [toNat_part, toNat_join, Nat.mul_comm, Nat.mul_add_div (Nat.two_pow_pos m), Nat.div_eq_of_lt b.isLt, Nat.add_zero,
    Nat.mod_eq_of_lt a.isLt]

/-- The low part of a vector after another. -/
theorem extract_join_low {n m : Nat} (a : BitVec n) (b : BitVec m) : (a ++ b).extractLsb' 0 m = b := by
  apply BitVec.eq_of_toNat_eq
  rw [toNat_part, toNat_join, pow_zero, Nat.div_one, Nat.mul_add_mod', Nat.mod_eq_of_lt b.isLt]

/-- A vector is its high part and its low part. -/
theorem join_extract {n m : Nat} (x : BitVec (n + m)) : x.extractLsb' m n ++ x.extractLsb' 0 m = x := by
  apply BitVec.eq_of_toNat_eq
  rw [toNat_join, toNat_part, toNat_part, pow_zero, Nat.div_one,
    Nat.mod_eq_of_lt (Nat.div_lt_of_lt_mul (by rw [Nat.mul_comm, ← pow_add]; exact x.isLt)), Nat.div_add_mod']

/-- The word written with four digits has these digits. -/
theorem digits_of_word (g o j k : Digit) :
    (g ++ o ++ j ++ k : Half).extractLsb' 12 4 = g ∧ (g ++ o ++ j ++ k : Half).extractLsb' 8 4 = o ∧
      (g ++ o ++ j ++ k : Half).extractLsb' 4 4 = j ∧ (g ++ o ++ j ++ k : Half).extractLsb' 0 4 = k := by
  have hw : (g ++ o ++ j ++ k : Half).toNat = ((g.toNat * 2 ^ 4 + o.toNat) * 2 ^ 4 + j.toNat) * 2 ^ 4 + k.toNat := by
    rw [toNat_join, toNat_join, toNat_join]
  refine ⟨?_, ?_, ?_, ?_⟩ <;>
  · apply BitVec.eq_of_toNat_eq
    rw [toNat_part, hw]
    omega

/-- A word is its four digits. -/
theorem word_of_digits (w : Half) :
    w.extractLsb' 12 4 ++ w.extractLsb' 8 4 ++ w.extractLsb' 4 4 ++ w.extractLsb' 0 4 = w := by
  apply BitVec.eq_of_toNat_eq
  rw [toNat_join, toNat_join, toNat_join, toNat_part, toNat_part, toNat_part, toNat_part]
  omega

/-! ### From an instruction to its digits and back -/

/-- A check of fixed bits that they pass. -/
theorem fixedBits_of {c : Bool} (i : Instr) (h : c = true) : fixedBits c i = .ok i := if_pos h

/-- The digits of an encoding decode to the instruction: the fields of less or more than a digit are put together again. -/
theorem decodeDigits_encodeDigits (i : Instr) (l : Half) :
    decodeDigits (encodeDigits i).1 (encodeDigits i).2.1 (encodeDigits i).2.2.1 (encodeDigits i).2.2.2 (i.literal.getD l) =
      .ok i := by
  have number : ∀ n : BitVec 5, (0#3 ++ n.extractLsb' 4 1 : Digit).extractLsb' 1 3 = 0#3 ∧
      (0#3 ++ n.extractLsb' 4 1 : Digit).extractLsb' 0 1 ++ n.extractLsb' 0 4 = n := by decide
  have address : ∀ a : BitVec 6, (2#2 ++ a.extractLsb' 4 2 : Digit).extractLsb' 1 3 ≠ 0#3 ∧
      (2#2 ++ a.extractLsb' 4 2 : Digit).extractLsb' 2 2 = 2#2 ∧
      (2#2 ++ a.extractLsb' 4 2 : Digit).extractLsb' 0 2 ++ a.extractLsb' 0 4 = a := by decide
  have port : ∀ p : BitVec 6, (3#2 ++ p.extractLsb' 4 2 : Digit).extractLsb' 1 3 ≠ 0#3 ∧
      (3#2 ++ p.extractLsb' 4 2 : Digit).extractLsb' 2 2 ≠ 2#2 ∧ (3#2 ++ p.extractLsb' 4 2 : Digit).extractLsb' 2 2 = 3#2 ∧
      (3#2 ++ p.extractLsb' 4 2 : Digit).extractLsb' 0 2 ++ p.extractLsb' 0 4 = p := by decide
  have byte : ∀ b : Byte, b.extractLsb' 4 4 ++ b.extractLsb' 0 4 = b := fun b => join_extract (n := 4) (m := 4) b
  have jump : ∀ r : JrNum, ((0#1 ++ r : Digit).extractLsb' 3 1 == 0#1) = true ∧ (0#1 ++ r : Digit).extractLsb' 0 3 = r := by
    decide
  have controls : ∀ c : BitVec 2, ((0#2 ++ c : Digit).extractLsb' 2 2 == 0#2) = true ∧
      (0#2 ++ c : Digit).extractLsb' 0 2 = c := by decide
  cases i
  case tie n k | toe n k | tii n k | toi n k =>
    obtain ⟨high, whole⟩ := number n
    refine (if_pos high).trans ?_
    dsimp only [encodeDigits]
    rw [whole]
  case fl a =>
    obtain ⟨high, mark, whole⟩ := address a
    refine (if_neg high).trans ((if_pos mark).trans ?_)
    dsimp only [encodeDigits]
    rw [whole]
    rfl
  case sl a k =>
    obtain ⟨high, mark, whole⟩ := address a
    refine (if_neg high).trans ((if_pos mark).trans ?_)
    dsimp only [encodeDigits]
    rw [whole]
  case tip p k | top p k =>
    obtain ⟨high, other, mark, whole⟩ := port p
    refine (if_neg high).trans ((if_neg other).trans ((if_pos mark).trans ?_))
    dsimp only [encodeDigits]
    rw [whole]
  case ltrc b | lb b | jrp b | jrm b | djrp b | djrm b | djtnz b | jrpx b | jrmx b | jtnz b | mii b | min b | miv b | sc b | rc b =>
    conv_rhs => rw [← byte b]
    rfl
  case ribo r _ | dribo r _ | ribz r _ | dribz r _ | jiol _ r _ _ | jizl _ r _ _ | linkm r _ | link r _ =>
    obtain ⟨high, low⟩ := jump r
    refine (fixedBits_of _ high).trans (congrArg Except.ok ?_)
    simp [encodeDigits, Instr.literal, low]
  case rti c _ =>
    obtain ⟨high, low⟩ := controls c
    refine (fixedBits_of _ high).trans ?_
    dsimp only [encodeDigits]
    rw [low]
  case eaf b => simp [encodeDigits, decodeDigits, decodeG1, byte b]
  case jmpia r _ | jmpna r _ =>
    obtain ⟨high, low⟩ := jump r
    rw [beq_iff_eq] at high
    simp [encodeDigits, decodeDigits, decodeG3, fixedBits, high, low]
  case mrr | fr | f | lfa | lfal | lfd | sr | s | sa | sd | wpmb | tflhd | tflhi | tfrhd | tfrhi | tffd | tffi | tfbd | tfbi | tfbdn | tfb |
      jor | djor | setia | setna | jmpib | jmpic | jmpnb | jmpnc | jmpva | jmpvb | jmpvc | jmpd | jpmbn | rcv | djpmbn | tfbin =>
    simp [encodeDigits, decodeDigits, decodeG0, decodeG1, decodeG2, decodeG3, fixedBits]
  all_goals rfl

/-- Settles O48: the word of an instruction has its digits, and these decode to it. -/
theorem decodeOfEncode : Obligations.DecodeOfEncode := by
  intro i l hi
  obtain ⟨hg, ho, hj, hk⟩ :=
    digits_of_word (encodeDigits i).1 (encodeDigits i).2.1 (encodeDigits i).2.2.1 (encodeDigits i).2.2.2
  unfold decode encodeWord
  rw [hg, ho, hj, hk, decodeDigits_encodeDigits i l]
  exact if_pos hi

end Sys2Proof.Machine
end

section
/-! Every word that decodes is an encoding; the words that do not (30 R325, R333). -/

namespace Sys2Proof.Machine

/-! ### From the digits of a word to the instruction and back -/

/-- The digits of `i` are `g o j k`, and its literal, if it has one, is `l`. -/
def Encodes (i : Instr) (g o j k : Digit) (l : Half) : Prop :=
  encodeDigits i = (g, o, j, k) ∧ (i.literal = none ∨ i.literal = some l)

/-- Whatever instruction the row `r` of the table gives is encoded by the digits `g o j k` and the literal `l`. -/
def Gives (r : Except DecodeError Instr) (g o j k : Digit) (l : Half) : Prop := ∀ i, r = .ok i → Encodes i g o j k l

/-- A row without fixed bits. -/
theorem gives_ok {i : Instr} {g o j k : Digit} {l : Half} (h : Encodes i g o j k l) : Gives (.ok i) g o j k l := by
  intro x hx
  cases hx
  exact h

/-- A row that is none. -/
theorem gives_error (e : DecodeError) (g o j k : Digit) (l : Half) : Gives (.error e) g o j k l := by
  intro x hx
  cases hx

/-- A row with fixed bits. -/
theorem gives_fixedBits {c : Bool} {i : Instr} {g o j k : Digit} {l : Half} (h : c = true → Encodes i g o j k l) :
    Gives (fixedBits c i) g o j k l := by
  intro x hx
  unfold fixedBits at hx
  split at hx
  · next hc => cases hx; exact h hc
  · cases hx

/-- A row that fixes the digit J. -/
theorem gives_fixedJ {a : Digit} {i : Instr} {g o k : Digit} {l : Half} (j : Digit) (h : Encodes i g o a k l) :
    Gives (fixedBits (j == a) i) g o j k l := by
  refine gives_fixedBits fun hc => ?_
  rw [beq_iff_eq.mp hc]
  exact h

/-- A row that fixes the digit K. -/
theorem gives_fixedK {a : Digit} {i : Instr} {g o j : Digit} {l : Half} (k : Digit) (h : Encodes i g o j a l) :
    Gives (fixedBits (k == a) i) g o j k l := by
  refine gives_fixedBits fun hc => ?_
  rw [beq_iff_eq.mp hc]
  exact h

/-- A row that fixes both operand digits. -/
theorem gives_fixedJK {a b : Digit} {i : Instr} {g o : Digit} {l : Half} (j k : Digit) (h : Encodes i g o a b l) :
    Gives (fixedBits ((j == a) && (k == b)) i) g o j k l := by
  refine gives_fixedBits fun hc => ?_
  obtain ⟨hj, hk⟩ := Bool.and_eq_true_iff.mp hc
  rw [beq_iff_eq.mp hj, beq_iff_eq.mp hk]
  exact h

/-- A digit whose top bit is 0 is its three low bits. -/
theorem digit_of_jump {j : Digit} (h : j.extractLsb' 3 1 = 0#1) : 0#1 ++ j.extractLsb' 0 3 = j := by
  revert j; decide

/-- A row with a jump register in J. -/
theorem gives_jump (f : JrNum → Instr) {g o k : Digit} {l : Half} (j : Digit) (h : ∀ r, Encodes (f r) g o (0#1 ++ r) k l) :
    Gives (fixedBits (j.extractLsb' 3 1 == 0#1) (f (j.extractLsb' 0 3))) g o j k l := by
  refine gives_fixedBits fun hc => ?_
  have hj := h (j.extractLsb' 0 3)
  rwa [digit_of_jump (beq_iff_eq.mp hc)] at hj

/-- The digits of a byte written with two digits. -/
theorem digits_of_byte (j k : Digit) : (j ++ k : Byte).extractLsb' 4 4 = j ∧ (j ++ k : Byte).extractLsb' 0 4 = k :=
  ⟨extract_join_high j k, extract_join_low j k⟩

/-- A row with a byte in J and K. -/
theorem gives_byte (f : Byte → Instr) {g o : Digit} {l : Half} (j k : Digit)
    (h : ∀ b : Byte, Encodes (f b) g o (b.extractLsb' 4 4) (b.extractLsb' 0 4) l) : Gives (.ok (f (j ++ k))) g o j k l := by
  have hb := h (j ++ k)
  rw [(digits_of_byte j k).1, (digits_of_byte j k).2] at hb
  exact gives_ok hb

/-- A digit whose two top bits are 0 is its two low bits. -/
theorem digit_of_controls {j : Digit} (h : j.extractLsb' 2 2 = 0#2) : 0#2 ++ j.extractLsb' 0 2 = j := by
  revert j; decide

/-- The row of RTI, with two controls in J. -/
theorem gives_controls (f : BitVec 2 → Instr) {g o k : Digit} {l : Half} (j : Digit)
    (h : ∀ c, Encodes (f c) g o (0#2 ++ c) k l) :
    Gives (fixedBits (j.extractLsb' 2 2 == 0#2) (f (j.extractLsb' 0 2))) g o j k l := by
  refine gives_fixedBits fun hc => ?_
  have hj := h (j.extractLsb' 0 2)
  rwa [digit_of_controls (beq_iff_eq.mp hc)] at hj

/-- The operation digit of a register command is 0 or 1. -/
theorem digit_of_number {o : Digit} (h : o.extractLsb' 1 3 = 0#3) : 0#3 ++ o.extractLsb' 0 1 = o := by revert o; decide

/-- The operation digit of a scratch pad literal is 8 to 11. -/
theorem digit_of_address {o : Digit} (h : o.extractLsb' 2 2 = 2#2) : 2#2 ++ o.extractLsb' 0 2 = o := by revert o; decide

/-- The operation digit of a port command is 12 to 15. -/
theorem digit_of_port {o : Digit} (h : o.extractLsb' 2 2 = 3#2) : 3#2 ++ o.extractLsb' 0 2 = o := by revert o; decide

/-- A row with a register number in the low bit of the operation digit and J. -/
theorem encodes_number {i : BitVec 5 → Instr} {g o j k : Digit} {l : Half} (h : o.extractLsb' 1 3 = 0#3)
    (e : ∀ n, Encodes (i n) g (0#3 ++ n.extractLsb' 4 1) (n.extractLsb' 0 4) k l) :
    Encodes (i (o.extractLsb' 0 1 ++ j)) g o j k l := by
  have hn := e (o.extractLsb' 0 1 ++ j)
  rw [show (o.extractLsb' 0 1 ++ j : BitVec 5).extractLsb' 4 1 = o.extractLsb' 0 1 from extract_join_high _ j,
    show (o.extractLsb' 0 1 ++ j : BitVec 5).extractLsb' 0 4 = j from extract_join_low _ j, digit_of_number h] at hn
  exact hn

/-- A row with a scratch pad address in the two low bits of the operation digit and J. -/
theorem encodes_address {i : BitVec 6 → Instr} {g o j k : Digit} {l : Half} (h : o.extractLsb' 2 2 = 2#2)
    (e : ∀ a, Encodes (i a) g (2#2 ++ a.extractLsb' 4 2) (a.extractLsb' 0 4) k l) :
    Encodes (i (o.extractLsb' 0 2 ++ j)) g o j k l := by
  have ha := e (o.extractLsb' 0 2 ++ j)
  rw [show (o.extractLsb' 0 2 ++ j : BitVec 6).extractLsb' 4 2 = o.extractLsb' 0 2 from extract_join_high _ j,
    show (o.extractLsb' 0 2 ++ j : BitVec 6).extractLsb' 0 4 = j from extract_join_low _ j, digit_of_address h] at ha
  exact ha

/-- A row with a port in the two low bits of the operation digit and J. -/
theorem encodes_port {i : BitVec 6 → Instr} {g o j k : Digit} {l : Half} (h : o.extractLsb' 2 2 = 3#2)
    (e : ∀ p, Encodes (i p) g (3#2 ++ p.extractLsb' 4 2) (p.extractLsb' 0 4) k l) :
    Encodes (i (o.extractLsb' 0 2 ++ j)) g o j k l := by
  have hp := e (o.extractLsb' 0 2 ++ j)
  rw [show (o.extractLsb' 0 2 ++ j : BitVec 6).extractLsb' 4 2 = o.extractLsb' 0 2 from extract_join_high _ j,
    show (o.extractLsb' 0 2 ++ j : BitVec 6).extractLsb' 0 4 = j from extract_join_low _ j, digit_of_port h] at hp
  exact hp

/-- A digit is its number. -/
theorem digit_of_toNat {o : Digit} {n : Nat} (h : o.toNat = n) : o = BitVec.ofNat 4 n := by
  rw [← h, BitVec.ofNat_toNat, BitVec.setWidth_eq]

/-! ### The rows, by the digit G -/

/-- Words with G = 0. -/
theorem decodeG0_encodes (o j k : Digit) (l : Half) : Gives (decodeG0 o j k l) 0#4 o j k l := by
  unfold decodeG0
  split
  case isTrue h =>
    exact gives_ok (encodes_number (i := (.tie · k)) h fun _ => ⟨rfl, .inl rfl⟩)
  split
  case isTrue h =>
    exact gives_fixedK k (encodes_address (i := .fl) h fun _ => ⟨rfl, .inl rfl⟩)
  split
  case isTrue h =>
    exact gives_ok (encodes_port (i := (.tip · k)) h fun _ => ⟨rfl, .inl rfl⟩)
  split
  case h_1 q | h_2 q | h_3 q =>
    obtain rfl := digit_of_toNat q
    exact gives_fixedJ j ⟨rfl, .inl rfl⟩
  case h_4 q | h_5 q | h_6 q =>
    obtain rfl := digit_of_toNat q
    exact gives_ok ⟨rfl, .inl rfl⟩
  case h_7 => exact gives_error _ _ _ _ _ _

/-- Words with G = 1. -/
theorem decodeG1_encodes (o j k : Digit) (l : Half) : Gives (decodeG1 o j k l) 1#4 o j k l := by
  unfold decodeG1
  split
  case isTrue h =>
    exact gives_ok (encodes_number (i := (.toe · k)) h fun _ => ⟨rfl, .inl rfl⟩)
  split
  case isTrue h =>
    exact gives_ok (encodes_address (i := (.sl · k)) h fun _ => ⟨rfl, .inl rfl⟩)
  split
  case isTrue h =>
    exact gives_ok (encodes_port (i := (.top · k)) h fun _ => ⟨rfl, .inl rfl⟩)
  split
  case h_1 q =>
    obtain rfl := digit_of_toNat q
    exact gives_byte .eaf j k fun _ => ⟨rfl, .inl rfl⟩
  case h_2 q =>
    obtain rfl := digit_of_toNat q
    exact gives_fixedJK j k ⟨rfl, .inl rfl⟩
  case h_3 q | h_4 q | h_5 q | h_6 q =>
    obtain rfl := digit_of_toNat q
    exact gives_ok ⟨rfl, .inl rfl⟩
  case h_7 => exact gives_error _ _ _ _ _ _

/-- Words with G = 2. -/
theorem decodeG2_encodes (o j k : Digit) (l : Half) : Gives (decodeG2 o j k l) 2#4 o j k l := by
  unfold decodeG2
  split
  case isTrue h =>
    exact gives_ok (encodes_number (i := (.tii · k)) h fun _ => ⟨rfl, .inl rfl⟩)
  split
  case h_1 q | h_2 q | h_3 q | h_4 q | h_7 q | h_8 q | h_9 q | h_10 q | h_11 q | h_12 q | h_13 q =>
    obtain rfl := digit_of_toNat q
    exact gives_ok ⟨rfl, .inl rfl⟩
  case h_5 q | h_6 q =>
    obtain rfl := digit_of_toNat q
    exact gives_fixedJK j k ⟨rfl, .inl rfl⟩
  case h_14 q =>
    obtain rfl := digit_of_toNat q
    exact gives_fixedK k ⟨rfl, .inl rfl⟩
  case h_15 => exact gives_error _ _ _ _ _ _

/-- Words with G = 3. -/
theorem decodeG3_encodes (o j k : Digit) (l : Half) : Gives (decodeG3 o j k l) 3#4 o j k l := by
  unfold decodeG3
  split
  case isTrue h =>
    exact gives_ok (encodes_number (i := (.toi · k)) h fun _ => ⟨rfl, .inl rfl⟩)
  split
  case h_1 q =>
    obtain rfl := digit_of_toNat q
    exact gives_jump (.jmpia · k) j fun _ => ⟨rfl, .inl rfl⟩
  case h_2 q | h_5 q | h_10 q =>
    obtain rfl := digit_of_toNat q
    exact gives_fixedJ j ⟨rfl, .inl rfl⟩
  case h_3 q | h_6 q | h_7 q | h_8 q | h_9 q | h_11 q | h_13 q =>
    obtain rfl := digit_of_toNat q
    exact gives_fixedJK j k ⟨rfl, .inl rfl⟩
  case h_4 q =>
    obtain rfl := digit_of_toNat q
    exact gives_jump (.jmpna · k) j fun _ => ⟨rfl, .inl rfl⟩
  case h_12 q | h_14 q =>
    obtain rfl := digit_of_toNat q
    exact gives_ok ⟨rfl, .inl rfl⟩
  case h_15 => exact gives_error _ _ _ _ _ _

/-- Words with G = 4. -/
theorem decodeG4_encodes (o j k : Digit) (l : Half) : Gives (decodeG4 o j k l) 4#4 o j k l := by
  unfold decodeG4
  split
  case h_1 q | h_2 q | h_3 q | h_4 q | h_5 q | h_6 q | h_7 q | h_8 q | h_9 q | h_10 q =>
    obtain rfl := digit_of_toNat q
    exact gives_fixedJK j k ⟨rfl, .inl rfl⟩
  case h_11 q | h_12 q | h_13 q | h_14 q | h_15 q | h_16 q =>
    obtain rfl := digit_of_toNat q
    exact gives_ok ⟨rfl, .inl rfl⟩
  case h_17 => exact gives_error _ _ _ _ _ _

/-- Words with G = 5. -/
theorem decodeG5_encodes (o j k : Digit) (l : Half) : Gives (decodeG5 o j k l) 5#4 o j k l := by
  unfold decodeG5
  split
  case h_1 q | h_2 q | h_3 q | h_4 q | h_11 q | h_12 q | h_15 q =>
    obtain rfl := digit_of_toNat q
    exact gives_ok ⟨rfl, .inl rfl⟩
  case h_5 q =>
    obtain rfl := digit_of_toNat q
    exact gives_byte .mii j k fun _ => ⟨rfl, .inl rfl⟩
  case h_6 q =>
    obtain rfl := digit_of_toNat q
    exact gives_byte .min j k fun _ => ⟨rfl, .inl rfl⟩
  case h_7 q =>
    obtain rfl := digit_of_toNat q
    exact gives_byte .miv j k fun _ => ⟨rfl, .inl rfl⟩
  case h_8 q =>
    obtain rfl := digit_of_toNat q
    exact gives_fixedJK j k ⟨rfl, .inl rfl⟩
  case h_9 q =>
    obtain rfl := digit_of_toNat q
    exact gives_byte .ltrc j k fun _ => ⟨rfl, .inl rfl⟩
  case h_10 q =>
    obtain rfl := digit_of_toNat q
    exact gives_byte .lb j k fun _ => ⟨rfl, .inl rfl⟩
  case h_13 q | h_14 q =>
    obtain rfl := digit_of_toNat q
    exact gives_fixedJ j ⟨rfl, .inr rfl⟩
  case h_16 => exact gives_error _ _ _ _ _ _

/-- Words with G = 6. -/
theorem decodeG6_encodes (o j k : Digit) (l : Half) : Gives (decodeG6 o j k l) 6#4 o j k l := by
  unfold decodeG6
  split
  case h_1 q | h_3 q | h_4 q | h_11 q | h_12 q =>
    obtain rfl := digit_of_toNat q
    exact gives_ok ⟨rfl, .inl rfl⟩
  case h_2 q =>
    obtain rfl := digit_of_toNat q
    exact gives_jump (.linkm · k) j fun _ => ⟨rfl, .inl rfl⟩
  case h_5 q =>
    obtain rfl := digit_of_toNat q
    exact gives_jump (.ribo · k) j fun _ => ⟨rfl, .inl rfl⟩
  case h_6 q =>
    obtain rfl := digit_of_toNat q
    exact gives_jump (.dribo · k) j fun _ => ⟨rfl, .inl rfl⟩
  case h_7 q =>
    obtain rfl := digit_of_toNat q
    exact gives_jump (.ribz · k) j fun _ => ⟨rfl, .inl rfl⟩
  case h_8 q =>
    obtain rfl := digit_of_toNat q
    exact gives_jump (.dribz · k) j fun _ => ⟨rfl, .inl rfl⟩
  case h_9 q | h_10 q =>
    obtain rfl := digit_of_toNat q
    exact gives_fixedJK j k ⟨rfl, .inl rfl⟩
  case h_13 q =>
    obtain rfl := digit_of_toNat q
    exact gives_byte .jrp j k fun _ => ⟨rfl, .inl rfl⟩
  case h_14 q =>
    obtain rfl := digit_of_toNat q
    exact gives_byte .jrm j k fun _ => ⟨rfl, .inl rfl⟩
  case h_15 q =>
    obtain rfl := digit_of_toNat q
    exact gives_byte .djrp j k fun _ => ⟨rfl, .inl rfl⟩
  case h_16 q =>
    obtain rfl := digit_of_toNat q
    exact gives_byte .djrm j k fun _ => ⟨rfl, .inl rfl⟩
  case h_17 => exact gives_error _ _ _ _ _ _

/-- Words with G = 7. -/
theorem decodeG7_encodes (o j k : Digit) (l : Half) : Gives (decodeG7 o j k l) 7#4 o j k l := by
  unfold decodeG7
  exact gives_jump (.jiol o · k l) j fun _ => ⟨rfl, .inr rfl⟩

/-- Words with G = 8. -/
theorem decodeG8_encodes (o j k : Digit) (l : Half) : Gives (decodeG8 o j k l) 8#4 o j k l := by
  unfold decodeG8
  exact gives_jump (.jizl o · k l) j fun _ => ⟨rfl, .inr rfl⟩

/-- Words with G = 9. -/
theorem decodeG9_encodes (o j k : Digit) (l : Half) : Gives (decodeG9 o j k l) 9#4 o j k l := by
  unfold decodeG9
  split
  case h_1 q =>
    obtain rfl := digit_of_toNat q
    exact gives_byte .djtnz j k fun _ => ⟨rfl, .inl rfl⟩
  case h_2 q =>
    obtain rfl := digit_of_toNat q
    exact gives_controls (.rti · k) j fun _ => ⟨rfl, .inl rfl⟩
  case h_3 q =>
    obtain rfl := digit_of_toNat q
    exact gives_jump (.link · k) j fun _ => ⟨rfl, .inl rfl⟩
  case h_4 q | h_13 q | h_14 q =>
    obtain rfl := digit_of_toNat q
    exact gives_ok ⟨rfl, .inl rfl⟩
  case h_5 q =>
    obtain rfl := digit_of_toNat q
    exact gives_byte .sc j k fun _ => ⟨rfl, .inl rfl⟩
  case h_6 q =>
    obtain rfl := digit_of_toNat q
    exact gives_byte .rc j k fun _ => ⟨rfl, .inl rfl⟩
  case h_7 q | h_8 q | h_9 q | h_10 q =>
    obtain rfl := digit_of_toNat q
    exact gives_fixedK k ⟨rfl, .inl rfl⟩
  case h_11 q =>
    obtain rfl := digit_of_toNat q
    exact gives_fixedJ j ⟨rfl, .inl rfl⟩
  case h_12 q | h_15 q | h_16 q =>
    obtain rfl := digit_of_toNat q
    exact gives_fixedJK j k ⟨rfl, .inl rfl⟩
  case h_17 => exact gives_error _ _ _ _ _ _

/-- Words with G = A. -/
theorem decodeG10_encodes (o j k : Digit) (l : Half) : Gives (decodeG10 o j k l) 10#4 o j k l := by
  unfold decodeG10
  split
  case h_1 q | h_2 q | h_3 q | h_4 q | h_5 q | h_6 q | h_11 q | h_12 q | h_13 q | h_14 q | h_15 q | h_16 q =>
    obtain rfl := digit_of_toNat q
    exact gives_ok ⟨rfl, .inl rfl⟩
  case h_7 q | h_8 q | h_9 q | h_10 q =>
    obtain rfl := digit_of_toNat q
    exact gives_fixedK k ⟨rfl, .inl rfl⟩
  case h_17 => exact gives_error _ _ _ _ _ _

/-- Words with G = B. -/
theorem decodeG11_encodes (o j k : Digit) (l : Half) : Gives (decodeG11 o j k l) 11#4 o j k l := by
  unfold decodeG11
  split
  case h_1 q =>
    obtain rfl := digit_of_toNat q
    exact gives_byte .jrpx j k fun _ => ⟨rfl, .inl rfl⟩
  case h_2 q =>
    obtain rfl := digit_of_toNat q
    exact gives_byte .jrmx j k fun _ => ⟨rfl, .inl rfl⟩
  case h_3 q | h_4 q | h_5 q | h_6 q =>
    obtain rfl := digit_of_toNat q
    exact gives_ok ⟨rfl, .inl rfl⟩
  case h_7 q | h_8 q =>
    obtain rfl := digit_of_toNat q
    exact gives_fixedK k ⟨rfl, .inr rfl⟩
  case h_9 q | h_10 q | h_12 q | h_13 q | h_14 q | h_15 q | h_16 q =>
    obtain rfl := digit_of_toNat q
    exact gives_fixedK k ⟨rfl, .inl rfl⟩
  case h_11 q =>
    obtain rfl := digit_of_toNat q
    exact gives_byte .jtnz j k fun _ => ⟨rfl, .inl rfl⟩
  case h_17 => exact gives_error _ _ _ _ _ _

/-- Words with G = C. -/
theorem decodeG12_encodes (o j k : Digit) (l : Half) : Gives (decodeG12 o j k l) 12#4 o j k l := by
  unfold decodeG12
  split
  case h_1 q | h_2 q | h_3 q | h_4 q | h_5 q | h_6 q | h_7 q | h_8 q | h_9 q | h_10 q | h_11 q | h_12 q | h_13 q | h_14 q |
      h_15 q | h_16 q =>
    obtain rfl := digit_of_toNat q
    exact gives_ok ⟨rfl, .inl rfl⟩
  case h_17 => exact gives_error _ _ _ _ _ _

/-- Words with G = D. -/
theorem decodeG13_encodes (o j k : Digit) (l : Half) : Gives (decodeG13 o j k l) 13#4 o j k l := by
  unfold decodeG13
  split
  case h_1 q | h_2 q | h_3 q | h_4 q | h_5 q | h_6 q | h_7 q | h_8 q | h_9 q | h_10 q | h_11 q | h_12 q | h_13 q | h_14 q |
      h_15 q | h_16 q =>
    obtain rfl := digit_of_toNat q
    exact gives_ok ⟨rfl, .inl rfl⟩
  case h_17 => exact gives_error _ _ _ _ _ _

/-- The digits of a word that decodes are those of its instruction, and its second word is its literal, if it has one. -/
theorem decodeDigits_encodes (g o j k : Digit) (l : Half) : Gives (decodeDigits g o j k l) g o j k l := by
  unfold decodeDigits
  split
  case h_1 q => obtain rfl := digit_of_toNat q; exact decodeG0_encodes o j k l
  case h_2 q => obtain rfl := digit_of_toNat q; exact decodeG1_encodes o j k l
  case h_3 q => obtain rfl := digit_of_toNat q; exact decodeG2_encodes o j k l
  case h_4 q => obtain rfl := digit_of_toNat q; exact decodeG3_encodes o j k l
  case h_5 q => obtain rfl := digit_of_toNat q; exact decodeG4_encodes o j k l
  case h_6 q => obtain rfl := digit_of_toNat q; exact decodeG5_encodes o j k l
  case h_7 q => obtain rfl := digit_of_toNat q; exact decodeG6_encodes o j k l
  case h_8 q => obtain rfl := digit_of_toNat q; exact decodeG7_encodes o j k l
  case h_9 q => obtain rfl := digit_of_toNat q; exact decodeG8_encodes o j k l
  case h_10 q => obtain rfl := digit_of_toNat q; exact decodeG9_encodes o j k l
  case h_11 q => obtain rfl := digit_of_toNat q; exact decodeG10_encodes o j k l
  case h_12 q => obtain rfl := digit_of_toNat q; exact decodeG11_encodes o j k l
  case h_13 q => obtain rfl := digit_of_toNat q; exact decodeG12_encodes o j k l
  case h_14 q => obtain rfl := digit_of_toNat q; exact decodeG13_encodes o j k l
  case h_15 q => obtain rfl := digit_of_toNat q; exact gives_ok ⟨rfl, .inr rfl⟩
  case h_16 =>
    have hg : g = 15#4 := by
      have h16 : g.toNat < 16 := g.isLt
      apply BitVec.eq_of_toNat_eq
      show g.toNat = 15
      simp only [imp_false] at *
      omega
    rw [hg]
    exact gives_ok ⟨rfl, .inr rfl⟩

end Sys2Proof.Machine
end

section
/-! What the decoder and the step make of a word (10 R46, R48; 30 R325, R333; 70 R768). -/

namespace Sys2Proof.Machine

/-! ### Words that decode -/

/-- What a word that decodes says of its instruction. -/
theorem decode_ok {w l : Half} {i : Instr} (h : decode w l = .ok i) :
    i.wellFormed = true ∧ encodeWord i = w ∧ (i.literal = none ∨ i.literal = some l) := by
  unfold decode at h
  split at h
  · next x hx =>
    split at h
    · next hw =>
      cases h
      obtain ⟨he, hl⟩ := decodeDigits_encodes _ _ _ _ l i hx
      refine ⟨hw, ?_, hl⟩
      unfold encodeWord
      rw [he]
      exact word_of_digits w
    · cases h
  · cases h

/-- Operation code 5F is no instruction (R333 (a)). -/
theorem decode_5F (d : Byte) (l : Half) : decode (0x5F#8 ++ d) l = .error .unassigned := by
  have hw : (0x5F#8 ++ d : Half) = 5#4 ++ 15#4 ++ leftDigit d ++ rightDigit d := by
    apply BitVec.eq_of_toNat_eq
    rw [toNat_join, toNat_join, toNat_join, toNat_join, toNat_leftDigit, toNat_rightDigit]
    show 0x5F * 2 ^ 8 + d.toNat = ((5 * 2 ^ 4 + 15) * 2 ^ 4 + d.toNat / 16) * 2 ^ 4 + d.toNat % 16
    omega
  obtain ⟨hg, ho, hj, hk⟩ := digits_of_word 5#4 15#4 (leftDigit d) (rightDigit d)
  unfold decode
  rw [hw, hg, ho, hj, hk]
  rfl

/-! ### The step from the state its cycle starts in -/

/-- The state in which the CPC executes in a cycle without reset: the reset of the cycle before is over (70 R760). -/
def State.unreset (s : State) : State := { s with pipe := { s.pipe with pmrstHeld := false } }

/-- A cycle without reset and in user mode is the ordinary one. -/
theorem State.cycle_of_running {s : State} (hr : s.now.pmrst = false) (hu : s.ca1At 13 = false) :
    s.cycle = s.unreset.runCycle := by
  unfold State.cycle
  rw [hr, hu]
  rfl

/-- The step of a state whose cycle is an ordinary one. -/
theorem step_of_running {s b : State} (h : s.begin = .ok b) (hr : b.now.pmrst = false) (hu : b.ca1At 13 = false) :
    step s = b.unreset.runCycle := by
  rw [step_of_begin h, State.cycle_of_running hr hu]

/-- A word that is no instruction refuses the cycle by name. -/
theorem State.runCycle_of_error {s : State} {e : DecodeError} (hw : s.busWait = false) (hk : s.pipe.skip = 0#2)
    (hd : decode s.pipe.xr s.pipe.ir = .error e) : s.runCycle = .refused (.notAnInstruction e) := by
  have hs : s.slot = .error (.notAnInstruction e) := by
    unfold State.slot
    rw [if_pos hk, hd]
  unfold State.runCycle
  rw [hw, hs]
  rfl

/-- The slot of an instruction. -/
theorem State.slot_of_ok {s : State} {i : Instr} (hk : s.pipe.skip = 0#2) (hd : decode s.pipe.xr s.pipe.ir = .ok i) :
    s.slot = .ok (some i) := by
  unfold State.slot
  rw [if_pos hk, hd]

/-- The slot to be voided. -/
theorem State.slot_of_skip {s : State} (hk : s.pipe.skip ≠ 0#2) : s.slot = .ok none := by
  unfold State.slot
  rw [if_neg hk]

/-- A cycle whose instruction does not wait executes it, then ends. -/
theorem State.runCycle_of_runs {s : State} {i : Instr} (hb : s.busWait = false) (hk : s.pipe.skip = 0#2)
    (hd : decode s.pipe.xr s.pipe.ir = .ok i) (hw : s.waits i = false) :
    s.runCycle = andThen (executeSlot i s) fun t => .next (t.finish (s.recognised (some i))) := by
  unfold State.runCycle
  rw [hb, State.slot_of_ok hk hd]
  simp only [hw]
  rfl

/-- A cycle whose instruction waits is held. -/
theorem State.runCycle_of_waits {s : State} {i : Instr} (hb : s.busWait = false) (hk : s.pipe.skip = 0#2)
    (hd : decode s.pipe.xr s.pipe.ir = .ok i) (hw : s.waits i = true) : s.runCycle = .next s.held := by
  unfold State.runCycle
  rw [hb, State.slot_of_ok hk hd]
  simp only [hw]
  rfl

/-- A broken restriction refuses the cycle, also where the instruction would have to wait (70 R768, R780). -/
theorem State.runCycle_of_hazard {s : State} {i : Instr} {r : Refusal} (hb : s.busWait = false) (hk : s.pipe.skip = 0#2)
    (hd : decode s.pipe.xr s.pipe.ir = .ok i) (hh : s.hazard i = some r) : s.runCycle = .refused r := by
  have hw : s.waits i = false := by
    unfold State.waits
    rw [hh, Option.isNone_some, Bool.and_false]
  rw [State.runCycle_of_runs hb hk hd hw]
  unfold executeSlot
  rw [hh]
  rfl

/-- An instruction that no restriction refuses executes in its slot. -/
theorem executeSlot_of_none {s : State} {i : Instr} (hh : s.hazard i = none) :
    executeSlot i s = andThen (exec i s) fun t => .next (afterExec i s t) := by
  unfold executeSlot
  rw [hh]

/-- Settles O49: the rows of the table are the encodings of their instructions; a word that is none refuses the cycle. -/
theorem wordsThatDecode : Obligations.WordsThatDecode := by
  refine ⟨fun w l i h => decode_ok h, decode_5F, ?_⟩
  intro s b d h hx hr hu hb hk
  rw [step_of_running h hr hu]
  refine State.runCycle_of_error hb hk ?_
  show decode b.pipe.xr b.pipe.ir = _
  rw [hx, decode_5F]

/-- Settles O50: each of the five words is decoded by evaluation. -/
theorem listedWordsDecode : Obligations.ListedWordsDecode := by
  unfold Obligations.ListedWordsDecode
  decide

/-- Settles O51: the ordinary cycle of the decoded instruction, its restrictions looked at first. -/
theorem stepRunsInstruction : Obligations.StepRunsInstruction := by
  intro s
  refine ⟨fun r h => step_of_refused h, ?_⟩
  intro u i h b hr hu hb hk hd
  rw [step_of_running h hr hu]
  refine ⟨fun r hh => State.runCycle_of_hazard hb hk hd hh, fun ho hv hh => ?_⟩
  have hw : b.waits i = false := by
    unfold State.waits
    rw [ho, hv]
    rfl
  have hc : u.unreset.runCycle = andThen (andThen (exec i b) fun t => .next (afterExec i b t))
      fun t => .next (t.finish (b.recognised (some i))) := by
    rw [← executeSlot_of_none hh]
    exact State.runCycle_of_runs hb hk hd hw
  rw [hc]
  constructor
  · intro t ht
    rw [ht]
    rfl
  · intro r ht
    rw [ht]
    rfl

end Sys2Proof.Machine
end

section
/-! What every step keeps, the parts (10 R56, R66; 11 R125; 20 R181; 21 R232): what each operation of the memory, the ATC and the CPC
does to the components that the invariant speaks of. -/

namespace Sys2Proof.Machine

/-! ### The bits of `ITA` that exist -/

/-- The bits of `c` all exist in `ITA` (11 R125). -/
abbrev Implemented (c : Half) : Prop := c &&& ~~~itaImplemented = 0#16

/-- Every bit of such a set that is 1 is one of `ITA`. -/
theorem implemented_iff (c : Half) : Implemented c ↔ c &&& itaImplemented = c := by
  constructor
  · intro h
    ext n hn
    have b := congrArg (fun x : Half => x.getLsbD n) h
    simp [hn] at b ⊢
    exact b
  · intro h
    unfold Implemented
    rw [← h, BitVec.and_assoc, BitVec.and_not_self]
    exact BitVec.and_zero

/-- Two sets of bits that exist. -/
theorem Implemented.or {a b : Half} (ha : Implemented a) (hb : Implemented b) : Implemented (a ||| b) := by
  ext n hn
  have h := congrArg (fun x : Half => x.getLsbD n) ha
  have g := congrArg (fun x : Half => x.getLsbD n) hb
  simp [hn] at h g ⊢
  rintro (q | q)
  · exact h q
  · exact g q

/-- Some of the bits of a set that exist. -/
theorem Implemented.and {a : Half} (ha : Implemented a) (b : Half) : Implemented (a &&& b) := by
  rw [implemented_iff] at *
  rw [BitVec.and_assoc, BitVec.and_comm b, ← BitVec.and_assoc, ha]

/-- What a write of `ITA` takes of its word exists. -/
theorem implemented_and_mask (a : Half) : Implemented (a &&& itaImplemented) := by
  rw [implemented_iff, BitVec.and_assoc, BitVec.and_self]

/-- The bit of a condition exists. -/
theorem implemented_itaBit {n : Nat} (b : Bool) (h : Implemented (itaBit n true)) : Implemented (itaBit n b) := by
  cases b
  · exact (by decide : Implemented 0#16)
  · exact h

/-- One bit that exists, set. -/
theorem Implemented.set {c : Half} (hc : Implemented c) {n : Nat} (h : Implemented (itaBit n true)) :
    Implemented (putBit c n true) := hc.or h

/-- The monitor conditions have bits that exist. -/
theorem State.implemented_monitored (s : State) (a : Word) (pc : BitVec 2) (store : Bool) : Implemented (s.monitored a pc store) :=
  (((implemented_itaBit _ (by decide)).or (implemented_itaBit _ (by decide))).or (implemented_itaBit _ (by decide))).or
    (implemented_itaBit _ (by decide))

/-! ### An unreferenced entry -/

/-- An entry of the associative memory is unreferenced. -/
theorem allReferenced_iff (v : Vector AmEntry 16) : allReferenced v = false ↔ ∃ e ∈ v.toList, e.rr = false := by
  unfold allReferenced
  rw [List.all_eq_false]
  simp

/-- A change of every entry that sets no reference bit. -/
theorem allReferenced_mapAm {f : AmEntry → AmEntry} {v : Vector AmEntry 16} (hf : ∀ e, e.rr = false → (f e).rr = false)
    (h : allReferenced v = false) : allReferenced (mapAm f v) = false := by
  rw [allReferenced_iff] at *
  obtain ⟨e, he, hr⟩ := h
  exact ⟨f e, List.mem_map_of_mem he, hf e hr⟩

/-- The reference bits cleared. -/
theorem allReferenced_cleared (v : Vector AmEntry 16) : allReferenced (mapAm (fun e => { e with rr := false }) v) = false := by
  rw [allReferenced_iff]
  exact ⟨{ v[0] with rr := false }, List.mem_map_of_mem (by simp), rfl⟩

/-- An entry replaced that keeps its reference bit. -/
theorem State.allReferenced_setEntry (s : State) (i : Nat) (e : AmEntry) (he : e.rr = (s.entry i).rr)
    (h : allReferenced s.atc.am = false) : allReferenced (s.setEntry i e).atc.am = false := by
  rw [allReferenced_iff] at *
  obtain ⟨x, hx, hr⟩ := h
  obtain ⟨m, hm, rfl⟩ := List.mem_iff_getElem.mp hx
  rw [Vector.length_toList] at hm
  by_cases q : i = m
  · subst q
    refine ⟨e, ?_, ?_⟩
    · simp [State.setEntry, List.mem_iff_getElem]
      exact ⟨i, hm, by simp⟩
    · rw [he, ← hr]
      simp [State.entry, List.getD, hm]
  · refine ⟨_, ?_, hr⟩
    simp [State.setEntry, List.mem_iff_getElem]
    exact ⟨m, hm, by simp [q]⟩

/-- A reference set, with its automatic reset. -/
theorem State.allReferenced_setReferenced (s : State) (i : Nat) : allReferenced (s.setReferenced i).atc.am = false := by
  unfold State.setReferenced
  simp only []
  split
  · exact allReferenced_cleared _
  · next h => exact Bool.eq_false_iff.mpr h

/-! ### The parts of the invariant that outlast a cycle -/

/-- What the invariant says of memory, the Breakpoint RAM, `SR`, `ITA`, the associative memory and the skip counter. -/
structure SoundParts (mem : Memory) (ram : List (Nat × Bool)) (sr ita : Half) (am : Vector AmEntry 16) (skip : BitVec 2) : Prop where
  mem : mem.wf = true
  ram : Table.canonical false ram = true
  sr : bitAt sr 6 = false
  ita : Implemented ita
  am : allReferenced am = false
  skip : skip ≠ 3#2

/-- The invariant but for what a cycle leaves over. -/
abbrev State.Sound (s : State) : Prop := SoundParts s.mem s.bkpt.ram s.cpc.sr s.atc.ita s.atc.am s.pipe.skip

/-- The invariant is that, and nothing left over from the cycle. -/
theorem State.inv_iff (s : State) : s.Inv ↔ s.Sound ∧ s.Settled :=
  ⟨fun ⟨⟨h1, h2⟩, ⟨h3, h4⟩, h5, h6, h7⟩ => ⟨⟨h1, h2, h3, h4, h5, h6⟩, h7⟩,
    fun ⟨⟨h1, h2, h3, h4, h5, h6⟩, h7⟩ => ⟨⟨h1, h2⟩, ⟨h3, h4⟩, h5, h6, h7⟩⟩

section Sound
variable {s t : State} (hs : s.Sound)
include hs

/-- Conditions posted. -/
theorem State.Sound.post {c : Half} (hc : Implemented c) : (s.post c).Sound := { hs with ita := hs.ita.or (hc.and _) }

/-- The memory error trap. -/
theorem State.Sound.memoryErrorTrap : s.memoryErrorTrap.Sound := by
  unfold State.memoryErrorTrap
  split
  · exact { hs with ita := hs.ita.set (by decide) }
  · exact hs

/-- A fetched word goes by. -/
theorem State.Sound.dropFetch : s.dropFetch.Sound := by
  unfold State.dropFetch
  split
  · simp only []
    split
    · exact hs.memoryErrorTrap
    · exact hs
  · exact hs

/-- The read of a word. -/
theorem State.Sound.eccRead (l : Bool) (pa : Nat) : (s.eccRead l pa).2.Sound := by
  unfold State.eccRead
  simp only []
  split <;> exact hs

/-- The word of a fetch. -/
theorem State.Sound.fetchWord (a : Target) : (s.fetchWord a).2.Sound := by
  have k : ({ (s.fetchWord a).2 with
      fresh := s.fresh
      atc := { (s.fetchWord a).2.atc with syn := s.atc.syn, synEr := s.atc.synEr, md := s.atc.md } } : State).Sound := by
    rw [s.fetchWord_keeps a]
    exact hs
  exact k

/-- A word written. -/
theorem State.Sound.writeWord (pa : Nat) (d : Word) : (s.writeWord pa d).Sound := by
  have hm := s.wf_writeWord pa d hs.mem
  unfold State.writeWord at *
  split
  · next h => rw [if_pos h] at hm; exact { hs with mem := hm }
  · next h =>
    rw [if_neg h] at hm
    simp only [] at hm ⊢
    split <;> exact { hs with mem := hm }

/-- A store. -/
theorem State.Sound.storeWord (a : Target) (tags : Digit) (d : Word) : (s.storeWord a tags d).Sound := by
  have hp : (if s.plat.atcPresent then { s with atc := { s.atc with pd := d } } else s : State).Sound := by split <;> exact hs
  unfold State.storeWord
  simp only []
  generalize (if s.plat.atcPresent then { s with atc := { s.atc with pd := d } } else s : State) = u at hp
  split
  · exact hp
  · split
    · exact hp.writeWord _ _
    · have he := hp.eccRead u.partialReadLoads (u.physical a)
      generalize u.eccRead u.partialReadLoads (u.physical a) = r at he
      obtain ⟨⟨old, e⟩, v⟩ := r
      simp only [] at he ⊢
      have hv : ((if v.plat.atcPresent then { v with atc := { v.atc with md := old } } else v : State).signalError e).Sound := by
        split <;> exact he
      split
      · exact hv
      · exact hv.writeWord _ _

/-- A real fetch. -/
theorem State.Sound.realFetch (b : Bool) (w : Word) (a : Target) : (s.realFetch b w a).2.Sound := by
  unfold State.realFetch
  simp only []
  refine State.Sound.fetchWord ?_ a
  split <;> exact hs

/-- A real store. -/
theorem State.Sound.realStore (b : Bool) (a : Target) (tags : Digit) (d : Word) : (s.realStore b a tags d).Sound :=
  State.Sound.storeWord (s := (s.atcReceived).setSeq _ b) hs a tags d

/-- A real fetch of the CPC. -/
theorem State.Sound.cpcRealFetch (a : Target) : (s.cpcRealFetch a).Sound := hs.dropFetch.realFetch true a.busWord a

/-- A real store of the CPC. -/
theorem State.Sound.cpcRealStore (a : Target) (tags : Digit) (d : Word) : (s.cpcRealStore a tags d).Sound :=
  hs.dropFetch.realStore true a tags d

/-- An entry replaced that keeps its reference bit. -/
theorem State.Sound.setEntry (i : Nat) (e : AmEntry) (he : e.rr = (s.entry i).rr) : (s.setEntry i e).Sound :=
  { hs with am := s.allReferenced_setEntry i e he hs.am }

/-- A reference set. -/
theorem State.Sound.setReferenced (i : Nat) : (s.setReferenced i).Sound := { hs with am := s.allReferenced_setReferenced i }

/-- A reference set by a command. -/
theorem State.Sound.referenceByCommand (i : Nat) : (s.referenceByCommand i).Sound := hs.setReferenced i

/-- Every entry changed, no reference bit set. -/
theorem State.Sound.mapAm {f : AmEntry → AmEntry} (hf : ∀ e, e.rr = false → (f e).rr = false) :
    ({ s with atc := { s.atc with am := mapAm f s.atc.am } } : State).Sound := { hs with am := allReferenced_mapAm hf hs.am }

/-- What a virtual message does in the ATC. -/
theorem State.Sound.translate {a : Word} {pc : BitVec 2} {tags : Digit} {o : Option Target}
    (h : s.translate a pc tags = .ok (o, t)) : t.Sound := by
  have hl : ((s.latchVirtual a pc).post (s.monitored a pc (tags != 0#4))).Sound :=
    State.Sound.post (s := s.latchVirtual a pc) hs (s.implemented_monitored _ _ _)
  unfold State.translate at h
  simp only [] at h
  generalize (s.latchVirtual a pc).post (s.monitored a pc (tags != 0#4)) = u at h hl
  split at h
  · cases h
    exact hl
  · split at h
    · split at h
      · cases h
      · cases h
        exact hl.post (by decide)
    · next i _ =>
      cases h
      have hr : ∀ w, ((u.setReferenced i).loadRar w).Sound := fun _ => hl.setReferenced i
      refine State.Sound.post ?_ (implemented_itaBit _ (by decide))
      split
      · exact ((hr _).post (implemented_itaBit _ (by decide))).setEntry i _ rfl
      · exact (hr _).post (implemented_itaBit _ (by decide))
    · cases h

/-- A virtual message up to its real half. -/
theorem State.Sound.virtualOp {a : Word} {pc : BitVec 2} {tags : Digit} {o : Option Target}
    (h : s.virtualOp a pc tags = .ok (o, t)) : t.Sound := by
  unfold State.virtualOp at h
  iterate 4
    split at h
    · cases h
  exact hs.translate h

/-- A virtual fetch of the CPC. -/
theorem State.Sound.cpcVirtualFetch {a : Word} {pc : BitVec 2} (h : s.cpcVirtualFetch a pc = .ok t) : t.Sound := by
  unfold State.cpcVirtualFetch at h
  split at h
  · cases h
  · next u q =>
    cases h
    have hu : u.Sound := hs.dropFetch.virtualOp q
    exact hu
  · next a u q =>
    cases h
    have hu : u.Sound := hs.dropFetch.virtualOp q
    exact State.Sound.fetchWord (s := u.sequence 0#4 true) hu a

/-- A virtual store of the CPC. -/
theorem State.Sound.cpcVirtualStore {a d : Word} {tags : Digit} (h : s.cpcVirtualStore a tags d = .ok t) : t.Sound := by
  unfold State.cpcVirtualStore at h
  split at h
  · cases h
  · next u q =>
    cases h
    have hu : u.Sound := hs.dropFetch.virtualOp q
    exact hu
  · next a u q =>
    cases h
    have hu : u.Sound := hs.dropFetch.virtualOp q
    exact State.Sound.storeWord (s := u.sequence tags true) hu a tags d

/-! ### Registers and commands of the ATC -/

/-- `BIN` loaded. -/
theorem State.Sound.loadBin (d : Word) : (s.loadBin d).Sound := by
  unfold State.loadBin
  simp only []
  split
  · exact hs
  · split
    · exact hs
    · exact State.Sound.post (s := { s with atc := { s.atc with bin := d, binFull := true } }) hs (by decide)

/-- `BIN` loaded while it is empty. -/
theorem State.Sound.writeBin (d : Word) : (s.writeBin d).Sound := by
  unfold State.writeBin
  split
  · exact hs
  · exact hs.loadBin d

/-- `ITA` written. -/
theorem State.Sound.writeIta (d : Word) : (s.writeIta d).Sound := by
  have hi := implemented_and_mask (rightHalf d)
  unfold State.writeIta
  simp only []
  split
  · exact { hs with ita := hi.set (by decide) }
  · exact { hs with ita := hi }

/-- TVA. -/
theorem State.Sound.translateOnly {d : Word} (h : s.translateOnly d = .ok t) : t.Sound := by
  have hv : ({ s with atc := { s.atc with varb := s.eff d, reqsOnce := true } } : State).Sound := hs
  unfold State.translateOnly at h
  simp only [] at h
  generalize ({ s with atc := { s.atc with varb := s.eff d, reqsOnce := true } } : State) = u at h hv
  repeat' split at h
  · cases h
  · cases h
  · cases h
    exact hv.post (by decide)
  · next i _ =>
    cases h
    exact State.Sound.post (s := (u.setReferenced i).loadRar _) (hv.setReferenced i) (implemented_itaBit _ (by decide))
  · cases h

/-- PS and PSM. -/
theorem State.Sound.purge {m : BitVec 22} {d : Word} (h : s.purge m d = .ok t) : t.Sound := by
  unfold State.purge at h
  split at h
  · cases h
  · cases h
    refine State.Sound.mapAm (s := s.atcReceived) hs fun e he => ?_
    split
    · rfl
    · exact he

/-- ESPF. -/
theorem State.Sound.espf (h : s.espf = .ok t) : t.Sound := by
  unfold State.espf at h
  split at h
  · cases h
  · cases h
    exact State.Sound.referenceByCommand (s := s.showDescriptor s.lru) hs _

/-- WVP. -/
theorem State.Sound.writeVirtualPage {d : Word} (h : s.writeVirtualPage d = .ok t) : t.Sound := by
  unfold State.writeVirtualPage at h
  split at h
  · cases h
  · cases h
    exact State.Sound.setEntry (s := s.atcReceived.showDescriptor s.lru) hs _ _ rfl

/-- WSPF. -/
theorem State.Sound.writePageFrame {d : Word} (h : s.writePageFrame d = .ok t) : t.Sound := by
  unfold State.writePageFrame at h
  split at h
  · cases h
  · split at h
    · cases h
    · cases h
      refine State.Sound.referenceByCommand (s := s.setEntry s.lru _) (State.Sound.setEntry hs s.lru _ ?_) _
      rfl

/-- A write message to a register. -/
theorem State.Sound.eruWrite {n : BitVec 7} {d : Word} (h : s.eruWrite n d = .ok t) : t.Sound := by
  have hr : s.atcReceived.Sound := hs
  unfold State.eruWrite at h
  simp only [] at h
  split at h
  · cases h; exact hs
  · split at h
    case h_2 => cases h; exact hr.writeIta d
    case h_7 =>
      cases h
      split
      · exact hr.writeBin d
      · exact hr.loadBin d
    case h_9 => cases h; exact hr.mapAm fun _ _ => rfl
    case h_11 => exact hs.writeVirtualPage h
    case h_12 => exact hs.writePageFrame h
    case h_13 => exact hs.purge h
    case h_15 => exact hs.purge h
    case h_16 => exact hs.translateOnly h
    all_goals cases h; exact hr

/-- A read message to a register. -/
theorem State.Sound.eruRead {n : BitVec 7} {w : Word} (h : s.eruRead n = .ok (w, t)) : t.Sound := by
  have hr : s.atcReceived.Sound := hs
  unfold State.eruRead at h
  simp only [] at h
  split at h
  · cases h; exact hs
  · split at h
    case h_9 =>
      split at h
      · cases h
      · next u q =>
        cases h
        have hu : u.Sound := hs.espf q
        exact hu
    case h_12 => cases h; exact hr.mapAm fun _ _ => rfl
    case h_14 =>
      split at h
      · cases h; exact hr
      · cases h
    all_goals cases h; exact hr

end Sound

end Sys2Proof.Machine
end

section
/-! Every instruction keeps the parts of the invariant that outlast a cycle. -/

namespace Sys2Proof.Machine

/-- Wherever the answer `o` goes on to, `P` holds. -/
def Lands (o : Result) (P : State → Prop) : Prop := ∀ t, o = .next t → P t

/-- An answer that is a state. -/
theorem lands_next {P : State → Prop} {t : State} (h : P t) : Lands (.next t) P := by
  rintro _ ⟨⟩
  exact h

/-- A refusal. -/
theorem lands_refused {P : State → Prop} {r : Refusal} : Lands (.refused r) P := by
  intro t h
  cases h

/-- An operation's answer as the answer of the instruction. -/
theorem lands_settle {P : State → Prop} {o : Except Refusal State} {f : State → State} (h : ∀ t, o = .ok t → P (f t)) :
    Lands (settle o f) P := by
  cases o with
  | ok t => exact lands_next (h t rfl)
  | error r => exact lands_refused

/-- One answer after another. -/
theorem lands_andThen {P Q : State → Prop} {o : Result} {f : State → Result} (h : Lands o P) (hf : ∀ t, P t → Lands (f t) Q) :
    Lands (andThen o f) Q := by
  cases o with
  | next t => exact hf t (h t rfl)
  | fault r => cases r
  | refused r => exact lands_refused

/-- A write of one of the bits 1 to 5 leaves bit 6. -/
theorem bitAt_putBit_low (x : Half) {n : Nat} (b : Bool) (hn : n ≤ 5) : bitAt (putBit x n b) 6 = bitAt x 6 := by
  interval_cases n <;> cases b <;> simp [bitAt, putBit]

/-- A bit of the lower part of a joined value. -/
theorem bitAt_append {v w : Nat} (x : BitVec v) (y : BitVec w) {n : Nat} (h1 : 1 ≤ n) (h : n ≤ w) : bitAt (x ++ y) n = bitAt y n := by
  have : n - 1 < w := by omega
  simp [bitAt, BitVec.getLsbD_append, this]

/-- A bit of the lower part of a value. -/
theorem bitAt_low {w : Nat} (x : BitVec w) {m n : Nat} (h1 : 1 ≤ n) (h : n ≤ m) : bitAt (x.extractLsb' 0 m) n = bitAt x n := by
  have : n - 1 < m := by omega
  simp [bitAt, this]

/-- The skip count that `CA1` keeps is in the two bits above 6 (10 R66). -/
theorem topBits_putBit (x : Byte) {n : Nat} (b : Bool) (hn : n ≤ 6) : (putBit x n b).extractLsb' 6 2 = x.extractLsb' 6 2 := by
  ext i hi
  interval_cases n <;> interval_cases i <;> cases b <;> simp [putBit]

/-- The overflow flags are below bit 6 (10 R56). -/
theorem overflowBit_le (k : RsuNum) : overflowBit k ≤ 5 := by
  have := k.isLt
  unfold overflowBit
  omega

section Sound
variable {s t : State} (hs : s.Sound)
include hs

/-! ### Flow -/

/-- A skip count that is not 3. -/
theorem State.Sound.void {n : BitVec 2} (hn : n ≠ 3#2) : (s.void n).Sound := { hs with skip := hn }

/-- An immediate jump. -/
theorem State.Sound.jumpImmediate (a : Half) : (s.jumpImmediate a).Sound :=
  State.Sound.void (s := s.jumpDelayed a) hs (by decide)

/-- What is done under a condition. -/
theorem State.Sound.when {f : State → State} (c : Bool) (hf : (f s).Sound) : (s.when c f).Sound := by
  cases c
  · exact hs
  · exact hf

/-- A two-word jump. -/
theorem State.Sound.jumpLong (c : Bool) (l : Half) : (s.jumpLong c l).Sound := by
  cases c
  · exact hs.void (by decide)
  · exact hs.jumpImmediate l

/-- The halfword on the bus. -/
theorem State.Sound.busHalf : s.busHalf.2.Sound := by
  unfold State.busHalf
  split <;> exact hs

/-- A breakpoint to be presented. -/
theorem State.Sound.presentBkpt (a b : Bool) : (s.presentBkpt a b).Sound := by
  unfold State.presentBkpt
  split <;> exact hs

/-! ### The State Register -/

/-- `SR` with bit 6 zero. -/
theorem State.Sound.setSr {v : Half} (hv : bitAt v 6 = false) : (s.setSr v).Sound := { hs with sr := hv }

/-- A bit of `SR` below 6. -/
theorem State.Sound.setSrAt {n : Nat} (b : Bool) (hn : n ≤ 5) : (s.setSrAt n b).Sound :=
  hs.setSr ((bitAt_putBit_low _ b hn).trans hs.sr)

/-- The capture of a virtual fetch. -/
theorem State.Sound.captureFetch (pc : BitVec 2) : (s.captureFetch pc).Sound := by
  refine hs.setSr (Eq.trans ?_ hs.sr)
  exact (bitAt_append _ _ (by decide) (by decide)).trans (bitAt_low _ (by decide) (by decide))

/-- The capture of a virtual store. -/
theorem State.Sound.captureStore (r : RsuNum) (tags : Digit) : (s.captureStore r tags).Sound := by
  refine hs.setSr (Eq.trans ?_ hs.sr)
  exact (bitAt_append _ _ (by decide) (by decide)).trans (bitAt_low _ (by decide) (by decide))

/-! ### Fields -/

/-- An overflow flag. -/
theorem State.Sound.overflow (k : RsuNum) (b : Bool) : (s.overflow k b).Sound := by
  cases b
  · exact hs
  · exact hs.setSrAt true (overflowBit_le k)

/-- A pointer step. -/
theorem State.Sound.stepUnit (k : RsuNum) (dec : Bool) : (s.stepUnit k dec).Sound := hs.overflow k (s.crosses k dec)

/-- A pointer step by two. -/
theorem State.Sound.stepTwo (old : State) (k : RsuNum) (dec : Bool) : (s.stepTwo old k dec).Sound := hs.overflow k (old.crossesTwo k dec)

/-- The direction. -/
theorem State.Sound.setDirection (dec : Bool) : (s.setDirection dec).Sound := hs.setSrAt dec (by decide)

/-- The end of a byte step. -/
theorem State.Sound.countByte (dec : Bool) : (s.countByte dec).Sound :=
  State.Sound.setDirection (s := s.setTally (s.cpc.tally - 1)) hs dec

/-- The end of a halfword step. -/
theorem State.Sound.endHalf (old : State) (k : RsuNum) (dec : Bool) : (s.endHalf old k dec).Sound :=
  State.Sound.setDirection (s := (s.stepTwo old k dec).countTwo) (hs.stepTwo old k dec) dec

/-- The end of a step on three fields. -/
theorem State.Sound.endThree : s.endThree.1.Sound := (((hs.stepUnit 9 true).stepUnit 11 true).stepUnit 13 true).countByte true

/-- A compare's pointer move. -/
theorem State.Sound.compareMove (k : RsuNum) (b : Bool) : (s.compareMove k b).Sound := hs.overflow k (!b && s.crosses k false)

/-- A packed result. -/
theorem State.Sound.packedResult (f : Byte → Byte → Bool → Byte × Bool) (a b : Byte) (c : Bool) : (s.packedResult f a b c).2.Sound := by
  unfold State.packedResult
  split <;> exact hs

/-- The result of an unpacked instruction. -/
theorem State.Sound.digitResult (f : Digit → Digit → Bool → Digit × Bool) (a b : Digit) (c : Bool) :
    (s.digitResult f a b c).2.Sound := by
  unfold State.digitResult
  split <;> exact hs

/-- A step voided while the tally is 0. -/
theorem State.Sound.unlessVoid {f : State → State} (hf : (f s).Sound) : (s.unlessVoid f).Sound := by
  unfold State.unlessVoid
  split
  · exact hs
  · exact hf

/-- A halfword loaded into the left half. -/
theorem State.Sound.loadLeft (j : RsuNum) (h : Half) : (s.loadLeft j h).Sound := by
  unfold State.loadLeft
  simp only []
  split <;> exact hs

/-- A halfword loaded into the right half. -/
theorem State.Sound.loadRight (j : RsuNum) (h : Half) : (s.loadRight j h).Sound := by
  unfold State.loadRight
  simp only []
  split <;> exact hs

/-- A halfword put into MARS6. -/
theorem State.Sound.put6h (h : Half) : (s.put6h h).Sound := by
  unfold State.put6h
  split
  · exact hs.loadLeft 13 h
  · exact hs.loadRight 13 h

/-- A halfword field instruction. -/
theorem State.Sound.halfwordStep (k : RsuNum) {f : State → State} (hf : (f s).Sound) : Lands (s.halfwordStep k f) State.Sound := by
  unfold State.halfwordStep
  split
  · exact lands_next hs
  · split
    · exact lands_refused
    · split
      · exact lands_refused
      · exact lands_next hf

/-- A halfword to MARS6. -/
theorem State.Sound.halfToField (h : Half) (dec : Bool) : Lands (s.halfToField h dec) State.Sound :=
  hs.halfwordStep 13 (((hs.put6h h).endHalf s 13 dec).overflow 13 _)

end Sound

/-- The byte steps of a multi-cycle instruction keep what each of them keeps. -/
theorem State.Sound.fieldLoop {one : State → State × Bool} (h1 : ∀ u : State, u.Sound → (one u).1.Sound) (n : Nat) :
    ∀ s : State, s.Sound → (fieldLoop one n s).Sound := by
  induction n with
  | zero => exact fun s hs => hs
  | succ n ih =>
    intro s hs
    unfold Sys2Proof.Machine.fieldLoop
    split
    · exact h1 s hs
    · exact ih _ (h1 s hs)

/-- A multi-cycle field instruction. -/
theorem State.Sound.fieldRun {s : State} (hs : s.Sound) {one : State → State × Bool} (h1 : ∀ u : State, u.Sound → (one u).1.Sound) :
    Lands (s.fieldRun one) State.Sound :=
  lands_next (hs.unlessVoid (State.Sound.fieldLoop h1 _ s hs))

section Sound
variable {s t : State} (hs : s.Sound)
include hs

/-! ### Memory instructions -/

/-- F, LFA, LFAL and LFD. -/
theorem State.Sound.fetchAt (a : Word) (pc : BitVec 2) {f : State → State} (hf : ∀ u : State, u.Sound → (f u).Sound) :
    Lands (fetchAt s a pc f) State.Sound := by
  unfold Sys2Proof.Machine.fetchAt
  split
  · exact lands_settle fun t h => hf _ ((hs.cpcVirtualFetch h).captureFetch pc)
  · exact lands_next (hf _ (hs.cpcRealFetch _))

/-- SR, S, SA and SD. -/
theorem State.Sound.storePair (virt : Bool) (j : Lit4) (k : RsuNum) {f : State → State} (hf : ∀ u : State, u.Sound → (f u).Sound) :
    Lands (storePair s virt j k f) State.Sound := by
  have ht : (s.takeTags j k).Sound := hs
  unfold Sys2Proof.Machine.storePair
  simp only []
  split
  · exact lands_refused
  · split
    · exact lands_settle fun t h => hf _ ((ht.cpcVirtualStore h).captureStore _ _)
    · exact lands_next (hf _ (ht.cpcRealStore _ _ _))

/-- MRR. -/
theorem State.Sound.execMrr (k : RsuNum) : Lands (execMrr k s) State.Sound := by
  unfold Sys2Proof.Machine.execMrr
  simp only []
  repeat' split
  · exact lands_refused
  · exact lands_settle fun t h => (hs.cpcVirtualStore h).void (by decide)
  · exact lands_next ((hs.cpcRealStore _ _ _).void (by decide))
  · exact lands_settle fun t h => hs.cpcVirtualFetch h
  · exact lands_next (hs.cpcRealFetch _)

/-! ### Registers -/

/-- The pointer of a scratch pad reference moved. -/
theorem State.Sound.bumpOperand (n : BitVec 5) : (s.bumpOperand n).Sound := by
  unfold State.bumpOperand
  split <;> exact hs

/-- TIE. -/
theorem State.Sound.execTie (n : BitVec 5) (k : RsuNum) : Lands (execTie n k s) State.Sound := by
  unfold Sys2Proof.Machine.execTie
  split
  · unfold State.pointerFetch
    split
    · have hf : (s.cpcRealFetch (scratchTarget (2#2 ++ (s.cpc.sptr - 1)))).Sound := hs.cpcRealFetch _
      exact lands_next hf
    · exact lands_next ((hs.cpcRealFetch _).bumpOperand n)
  · unfold receiveRegister
    split
    · next w t h =>
      have ht : t.Sound := hs.dropFetch.eruRead h
      exact lands_next ht
    · exact lands_refused

/-- TOE. -/
theorem State.Sound.execToe (n : BitVec 5) (k : RsuNum) : Lands (execToe n k s) State.Sound := by
  unfold Sys2Proof.Machine.execToe
  split
  · unfold State.pointerStore
    split
    · have hf : (s.cpcRealStore (scratchTarget (2#2 ++ s.cpc.sptr)) 0xF#4 (s.rsu k)).Sound := hs.cpcRealStore _ _ _
      exact lands_next hf
    · exact lands_next ((hs.cpcRealStore _ _ _).bumpOperand n)
  · exact lands_settle fun t h => hs.dropFetch.eruWrite h

/-- A message to a port. -/
theorem State.Sound.portWrite (p : BitVec 6) (d : Word) : (s.portWrite p d).Sound := by
  unfold State.portWrite
  split <;> exact hs

/-- A message from a port. -/
theorem State.Sound.portRead (p : BitVec 6) : (s.portRead p).2.Sound := by
  unfold State.portRead
  simp only []
  split <;> exact hs

/-- TOI: `SR` bit 6 stays zero. -/
theorem State.Sound.iruWrite {n : BitVec 5} {v : Word} (h : s.iruWrite n v = some t) : t.Sound := by
  unfold State.iruWrite at h
  split at h
  case h_2 =>
    cases h
    exact hs.setSr (by simp [bitAt, putBit])
  case h_15 =>
    split at h
    · cases h; exact hs
    · cases h
  all_goals cases h; exact hs

/-- RCV. -/
theorem State.Sound.execRcv (j : RsuNum) (k : Lit4) : Lands (execRcv j k s) State.Sound := by
  have hr : s.receive.2.Sound := by
    unfold State.receive
    split
    · exact hs
    · exact hs.dropFetch
  unfold Sys2Proof.Machine.execRcv
  simp only []
  generalize s.receive = r at hr
  obtain ⟨w, u⟩ := r
  have hu : (if bitAt k 1 && u.ca1At 12 then
      u.setSr (u.cpc.sr.extractLsb' 14 2 ++ oddOf j ++ u.cpc.sr.extractLsb' 0 10) else u).Sound := by
    split
    · refine State.Sound.setSr hr (Eq.trans ?_ hr.sr)
      exact (bitAt_append _ _ (by decide) (by decide)).trans (bitAt_low _ (by decide) (by decide))
    · exact hr
  refine lands_next ?_
  show State.Sound (State.setRsu _ _ _)
  dsimp only
  split
  · exact hu.memoryErrorTrap
  · exact hu

/-- What an RTI does before the restart: the skip count that `CA1` keeps stays. -/
theorem State.Sound.returning (jc : BitVec 2) (kc : Lit4) :
    let t := if bitAt kc 2 then s else s.setFifoRun false
    let t := (t.presentBkpt (bitAt jc 2) (bitAt jc 1)).restore
    let t := if bitAt kc 1 then (t.setCa1At 11 false).setCa1At 10 true else t
    t.Sound ∧ t.cpc.ca1.extractLsb' 6 2 = s.cpc.ca1.extractLsb' 6 2 := by
  have h1 : (if bitAt kc 2 then s else s.setFifoRun false : State).Sound ∧
      (if bitAt kc 2 then s else s.setFifoRun false : State).cpc.ca1 = s.cpc.ca1 := by split <;> exact ⟨hs, rfl⟩
  generalize (if bitAt kc 2 then s else s.setFifoRun false : State) = u at h1
  obtain ⟨hu, cu⟩ := h1
  have hv : ((u.presentBkpt (bitAt jc 2) (bitAt jc 1)).restore).Sound := hu.presentBkpt _ _
  have cv : ((u.presentBkpt (bitAt jc 2) (bitAt jc 1)).restore).cpc.ca1 = s.cpc.ca1 := by
    rw [← cu]
    unfold State.presentBkpt
    split <;> rfl
  intro t v w
  change v.Sound at hv
  change v.cpc.ca1 = _ at cv
  simp only [w]
  split
  · refine ⟨hv, ?_⟩
    rw [← cv]
    exact (topBits_putBit _ _ (by decide)).trans (topBits_putBit _ _ (by decide))
  · exact ⟨hv, by rw [cv]⟩

/-- RTI: it is refused where the skip count owed is 3. -/
theorem State.Sound.execRti (jc : BitVec 2) (kc : Lit4) : Lands (execRti jc kc s) State.Sound := by
  obtain ⟨hw, cw⟩ := hs.returning jc kc
  unfold Sys2Proof.Machine.execRti
  simp only []
  split
  · exact lands_refused
  · next h =>
    refine lands_next ?_
    split
    · next hr =>
      refine State.Sound.void (s := State.setFifoRun _ true) hw fun q => h ?_
      rw [cw] at q
      simp [hr, q]
    · exact hw

end Sound

end Sys2Proof.Machine
end

section
/-! Every step keeps the invariant: the instructions one by one, then the cycle. -/

namespace Sys2Proof.Machine

/-! ### The byte steps of the field instructions -/

section Sound
variable {s : State} (hs : s.Sound)
include hs

/-- A general register. -/
theorem State.Sound.setRsu (k : RsuNum) (v : Word) : (s.setRsu k v).Sound := hs

/-- An indicator. -/
theorem State.Sound.setIndAt (n : Nat) (b : Bool) : (s.setIndAt n b).Sound := hs

/-- Operand Pointer 2. -/
theorem State.Sound.setOptr2 (v : Byte) : (s.setOptr2 v).Sound := hs

/-- Operand Pointer 1. -/
theorem State.Sound.setOptr1 (v : Byte) : (s.setOptr1 v).Sound := hs

/-- Setup Register 1. -/
theorem State.Sound.setSur1 (v : Half) : (s.setSur1 v).Sound := hs

/-- Setup Register 5. -/
theorem State.Sound.setSur5 (v : Byte) : (s.setSur5 v).Sound := hs

/-- A delayed jump. -/
theorem State.Sound.jumpDelayed (a : Half) : (s.jumpDelayed a).Sound := hs

/-- A match for the next cycle. -/
theorem State.Sound.matchLater (b : Bool) : (s.matchLater b).Sound := hs

/-- The check of a byte. -/
theorem State.Sound.bcdCheck (both : Bool) (v : Byte) : (s.bcdCheck both v).Sound := hs

/-- I1 to I3. -/
theorem State.Sound.setOrder (a b c : Bool) : (s.setOrder a b c).Sound := hs

/-- The checks and the order of two field bytes. -/
theorem State.Sound.compareFields : s.compareFields.Sound :=
  ((hs.bcdCheck true (s.fbyte 9)).bcdCheck true (s.fbyte 11)).setOrder _ _ _

/-- A field byte to a field. -/
theorem State.Sound.fieldTransferStep (dec : Bool) : (fieldTransferStep dec s).1.Sound :=
  ((State.Sound.stepUnit (s := (s.bcdCheck true (s.fbyte 9)).put6 (s.fbyte 9)) hs 9 dec).stepUnit 13 dec).countByte dec

/-- A boolean field instruction. -/
theorem State.Sound.booleanStep (f : Byte → Byte → Byte) : (booleanStep f s).1.Sound :=
  State.Sound.endThree (s := s.put6 (f (s.fbyte 9) (s.fbyte 11))) hs

/-- AF and SF. -/
theorem State.Sound.binaryStep (f : Byte → Byte → Bool → Sum 8) : (binaryStep f s).1.Sound :=
  State.Sound.endThree (s := (s.put6 _).setIndAt 4 _) hs

/-- APDF and SPDF. -/
theorem State.Sound.packedStep (f : Byte → Byte → Bool → Byte × Bool) : (packedStep f s).1.Sound := by
  have hr : (((s.bcdCheck true (s.fbyte 9)).bcdCheck true (s.fbyte 11)).packedResult f (s.fbyte 9) (s.fbyte 11) (s.indAt 4)).2.Sound :=
    ((hs.bcdCheck true (s.fbyte 9)).bcdCheck true (s.fbyte 11)).packedResult _ _ _ _
  exact State.Sound.endThree (s := (State.put6 _ _).setIndAt 4 _) hr

/-- AUDF and SUDF. -/
theorem State.Sound.unpackedStep (f : Digit → Digit → Bool → Digit × Bool) : (unpackedStep f s).1.Sound := by
  have hr : (((s.bcdCheck false (s.fbyte 9)).bcdCheck false (s.fbyte 11)).digitResult f (rightDigit (s.fbyte 9))
      (rightDigit (s.fbyte 11)) (s.indAt 4)).2.Sound :=
    ((hs.bcdCheck false (s.fbyte 9)).bcdCheck false (s.fbyte 11)).digitResult _ _ _ _
  exact State.Sound.endThree (s := (State.put6 _ _).setIndAt 4 _) hr

/-- CFU. -/
theorem State.Sound.cfuStep : (cfuStep s).1.Sound :=
  ((hs.compareFields.compareMove 9 _).compareMove 11 _).countByte false

/-- CBFU. -/
theorem State.Sound.cbfuStep : (cbfuStep s).1.Sound := (hs.compareFields.compareMove 11 _).countByte false

/-- A packed decimal byte instruction. -/
theorem State.Sound.packedByte (f : Byte → Byte → Bool → Byte × Bool) (j k : ByteAddr) (c : Bool) : (s.packedByte f j k c).Sound :=
  have hr : (((s.bcdCheck true (s.byteOp j)).bcdCheck true (s.byteOp k)).packedResult f (s.byteOp j) (s.byteOp k) c).2.Sound :=
    ((hs.bcdCheck true (s.byteOp j)).bcdCheck true (s.byteOp k)).packedResult _ _ _ _
  hr

/-- A field byte to a register, and a pointer step. -/
theorem State.Sound.fieldToByteStep (j : ByteAddr) (k : RsuNum) (dec : Bool) : ((s.fieldToByte j k).stepUnit k dec).Sound :=
  State.Sound.stepUnit (s := s.fieldToByte j k) hs k dec

/-- A register byte to MARS6, and a pointer step. -/
theorem State.Sound.byteToFieldStep (j : ByteAddr) (dec : Bool) : ((s.byteToField j).stepUnit 13 dec).Sound :=
  State.Sound.stepUnit (s := s.byteToField j) hs 13 dec

/-- A field halfword to a register. -/
theorem State.Sound.fieldToHalf {load : State → RsuNum → Half → State} (hl : ∀ j h, (load s j h).Sound) (j k : RsuNum) (dec : Bool) :
    Lands (s.fieldToHalf load j k dec) State.Sound := hs.halfwordStep k ((hl _ _).endHalf s k dec)

/-! ### Setup instructions -/

/-- The loads of an IBM setup jump. -/
theorem State.Sound.loadIbm (h : Half) : (s.loadIbm h).Sound := (((hs.setSur1 h).setSur5 _).setOptr1 _).setOptr2 _

/-- The loads of a native setup jump. -/
theorem State.Sound.loadNvm (h : Half) : (s.loadNvm h).Sound := (((hs.setSur1 h).setSur5 _).setOptr1 _).setOptr2 _

/-- An A jump. -/
theorem State.Sound.setupJumpA (jr : JrNum) {f : State → State} (hf : (f s).Sound) : Lands (s.setupJumpA jr f) State.Sound := by
  unfold State.setupJumpA
  split
  · exact lands_next hs
  · split
    · exact lands_next (hf.stepTwo s 15 false)
    · split
      · exact lands_next hs
      · exact lands_refused

/-- SETIA. -/
theorem State.Sound.execSetia (j k : RsuNum) : Lands (execSetia j k s) State.Sound := by
  have ht : ((s.setSur2 (s.fhalf k)).setOptr2 (basePointer (topDigit (s.fhalf k)))).Sound := hs
  unfold Sys2Proof.Machine.execSetia
  simp only []
  split
  · exact lands_refused
  · exact lands_next ((ht.setRsu j _).stepTwo s 15 false)

/-- SETNA. -/
theorem State.Sound.execSetna (j : RsuNum) : Lands (execSetna j s) State.Sound := by
  have ht : ((s.setSur2 (s.fhalf 15)).enterSetna).Sound := by
    unfold State.enterSetna
    split <;> exact hs
  unfold Sys2Proof.Machine.execSetna
  simp only []
  generalize (s.setSur2 (s.fhalf 15)).enterSetna = u at ht
  split
  · exact lands_refused
  · split
    · exact lands_next (((ht.setIndAt 6 _).setRsu j _).stepTwo s 15 false)
    · exact lands_next (((ht.setOptr2 _).setRsu j _).stepTwo s 15 false)
    · exact lands_next (((ht.setOptr2 _).setRsu j _).stepTwo s 15 false)
    · exact lands_refused
    · exact lands_refused

/-- JMPIB. -/
theorem State.Sound.execJmpib (k : RsuNum) : Lands (execJmpib k s) State.Sound := by
  have ht := hs.loadIbm (leftHalf (s.rsu k))
  unfold Sys2Proof.Machine.execJmpib
  simp only []
  refine lands_next ?_
  split
  · exact (ht.matchLater _).jumpDelayed _
  · exact (ht.matchLater _).jumpDelayed _
  · exact (ht.matchLater _).jumpImmediate _

/-- JMPNB. -/
theorem State.Sound.execJmpnb (k : RsuNum) : Lands (execJmpnb k s) State.Sound := by
  have ht := hs.loadNvm (leftHalf (s.rsu k))
  unfold Sys2Proof.Machine.execJmpnb
  simp only []
  refine lands_next ?_
  split
  · exact ht.jumpImmediate _
  · exact ht.jumpDelayed _
  · exact ht.jumpDelayed _
  · exact ht.jumpImmediate _
  · exact ht.jumpImmediate _

end Sound

/-- Every instruction keeps the parts of the invariant that outlast a cycle. -/
theorem exec_sound (i : Instr) (s : State) (hs : s.Sound) : Lands (exec i s) State.Sound := by
  have one : (s.void 1).Sound := hs.void (by decide)
  cases i
  -- memory and registers
  case mrr k => exact hs.execMrr k
  case fr k => exact lands_next (hs.cpcRealFetch _)
  case f k => exact hs.fetchAt _ _ fun _ h => h
  case lfa j k => exact hs.fetchAt _ _ (f := fun t => t.setRsu j (s.rsu k + 4)) fun _ h => h
  case lfal j k => exact hs.fetchAt _ _ (f := fun t => t.setRsu j (s.rsu k + 4)) fun _ h => h
  case lfd j k => exact hs.fetchAt _ _ (f := fun t => t.setRsu j (s.rsu k - 4)) fun _ h => h
  case fl a => exact lands_next (hs.cpcRealFetch _)
  case sr j k | s j k => exact hs.storePair _ _ _ fun _ h => h
  case sa j k => exact hs.storePair _ _ _ (f := fun t => t.setRsu (evenOf k) (s.rsu (evenOf k) + 4)) fun _ h => h
  case sd j k => exact hs.storePair _ _ _ (f := fun t => t.setRsu (evenOf k) (s.rsu (evenOf k) - 4)) fun _ h => h
  case sl a k => exact lands_next (hs.cpcRealStore _ _ _)
  case tie n k => exact hs.execTie n k
  case tip p k => exact lands_next (hs.dropFetch.portRead p)
  case toe n k => exact hs.execToe n k
  case top p k => exact lands_next (hs.dropFetch.portWrite p _)
  case tii n k =>
    unfold exec execTii
    dsimp only
    split
    · refine lands_next ?_
      split <;> exact hs
    · exact lands_refused
  case toi n k =>
    unfold exec execToi
    dsimp only
    split
    · next h => exact lands_next (hs.iruWrite h)
    · exact lands_refused
  case wpmb => exact lands_next hs.dropFetch
  case eaf lit => exact lands_settle fun t h => (hs.dropFetch.eruWrite h : t.Sound)
  case rcv j k => exact hs.execRcv j k
  case rti jc kc => exact hs.execRti jc kc
  case tw j k =>
    refine lands_next ?_
    split <;> exact hs
  case lrh k l | lrhc k l => exact lands_next one
  -- fields
  case tflhd j k | tflhi j k => exact hs.fieldToHalf (hs.loadLeft · ·) j k _
  case tfrhd j k | tfrhi j k => exact hs.fieldToHalf (hs.loadRight · ·) j k _
  case tffd | tffi => exact hs.fieldRun fun _ h => h.fieldTransferStep _
  case tfbd j k | tfbi j k => exact lands_next (hs.unlessVoid ((hs.fieldToByteStep j k _).countByte _))
  case tfbdn j k | tfbin j k => exact lands_next ((hs.fieldToByteStep j k _).setDirection _)
  case tlhfd j | tlhfi j | trhfd j | trhfi j => exact hs.halfToField _ _
  case tbfd j | tbfi j => exact lands_next (hs.unlessVoid ((hs.byteToFieldStep j _).countByte _))
  case tbfdn j | tbfin j => exact lands_next ((hs.byteToFieldStep j _).setDirection _)
  case baf | bof | bef => exact hs.fieldRun fun _ h => h.booleanStep _
  case af | sf => exact hs.fieldRun fun _ h => h.binaryStep _
  case apdf | spdf => exact hs.fieldRun fun _ h => h.packedStep _
  case audf | sudf => exact hs.fieldRun fun _ h => h.unpackedStep _
  case cfu => exact hs.fieldRun fun _ h => h.cfuStep
  case cbfu => exact hs.fieldRun fun _ h => h.cbfuStep
  case apdb j k | spdb j k | apdbc j k | spdbc j k => exact lands_next (hs.packedByte _ _ _ _)
  -- jumps and skips
  case jor j k => exact lands_next (hs.jumpImmediate _)
  case djor j k => exact lands_next (hs.presentBkpt _ _)
  case jpmbn => exact lands_next (hs.busHalf.jumpImmediate _)
  case djpmbn => exact lands_next hs.busHalf
  case jrp disp | jrm disp => exact lands_next (hs.jumpImmediate _)
  case srb3o sel k | srbo sel k | srbz sel k | sru j k | sre j k => exact lands_next (hs.when _ one)
  case sibo sel | sibz sel => exact lands_next (hs.when _ one)
  case djibo sel k | djibz sel k | djibom sel k | djibzm sel k =>
    exact lands_next (hs.when (f := fun s => s.jumpDelayed _) _ hs)
  case dribo jr sel | dribz jr sel => exact lands_next (hs.when (f := fun s => s.jumpDelayed (s.jr jr)) _ hs)
  case ribo jr sel | ribz jr sel => exact lands_next (hs.when _ (hs.jumpImmediate _))
  case jibo sel k | jibz sel k | jibom sel k | jibzm sel k => exact lands_next (hs.when _ (hs.jumpImmediate _))
  case jrpx disp | jrmx disp => exact lands_next (hs.when _ (hs.jumpImmediate _))
  case jfa => exact lands_next (hs.when _ (hs.jumpImmediate _))
  case jfal => exact lands_next (hs.when (f := fun s => (s.jumpImmediate s.fieldVector).setJr 6 s.pipe.iar) _ (hs.jumpImmediate _))
  case jtnz disp =>
    exact lands_next (hs.when _ (State.Sound.jumpImmediate (s := s.setTally (s.cpc.tally - 1)) hs _))
  case djtnz disp => exact lands_next (hs.when (f := fun s => (s.setTally (s.cpc.tally - 1)).jumpDelayed (s.behind disp)) _ hs)
  case jiol hi jr k l | jizl hi jr k l =>
    exact lands_next ((hs.jumpLong _ l).when (f := fun t => t.setJr jr s.pipe.cr) _ (hs.jumpLong _ l))
  case jibol sel l | jibzl sel l => exact lands_next (hs.jumpLong _ l)
  case jro hi j k l | jrz hi j k l => exact lands_next (hs.jumpLong _ l)
  -- setup
  case setia j k => exact hs.execSetia j k
  case setna j => exact hs.execSetna j
  case jmpia jr k =>
    show Lands (execJmpia jr k s) State.Sound
    unfold execJmpia
    refine hs.setupJumpA jr ?_
    exact (hs.loadIbm _).jumpDelayed _
  case jmpna jr k =>
    show Lands (execJmpna jr k s) State.Sound
    unfold execJmpna
    refine hs.setupJumpA jr ?_
    exact (hs.loadNvm _).jumpDelayed _
  case jmpib k => exact hs.execJmpib k
  case jmpnb k => exact hs.execJmpnb k
  case jmpnc | jmpvc =>
    refine lands_next ?_
    split <;> exact hs
  case jmpd k =>
    refine lands_next ?_
    split
    · exact State.Sound.jumpImmediate (s := s.setSur1 _) hs _
    · exact hs
  all_goals exact lands_next hs

end Sys2Proof.Machine
end

section
/-! Every step keeps the invariant: the events before the cycle, the cycle, its end, the reset (10 R46, R49; 60 R722; 70 R760). -/

namespace Sys2Proof.Machine

section Sound
variable {s t : State} (hs : s.Sound)
include hs

/-! ### Between two cycles -/

/-- Periods of TODOSC. -/
theorem State.Sound.tick (n : Nat) : (s.tick n).Sound := by
  induction n generalizing s with
  | zero => exact hs
  | succ n ih => exact ih (s := { s with atc := { s.atc with
      tod := s.atc.tod + 1
      refReq := s.atc.refReq || (s.atc.tod + 1).extractLsb' 0 2 == 0#2 } }) hs

/-- A fetch of another device. -/
theorem State.Sound.deviceFetch (a : Word) : (s.deviceFetch a).Sound := hs.realFetch false (fetchBusWord a) (messageTarget a)

/-- A write message of another device. -/
theorem State.Sound.deviceWrite {n : BitVec 7} {d : Word} (h : s.deviceWrite n d = .ok t) : t.Sound := by
  unfold State.deviceWrite at h
  split at h
  · cases h
    exact hs.portWrite _ d
  · split at h
    · cases h
      split
      · exact State.Sound.writeBin (s := s.atcReceived) hs d
      · exact hs
    · split at h
      · cases h
      · next u q =>
        cases h
        have hu : u.Sound := hs.eruWrite q
        exact hu

/-- A read message of another device. -/
theorem State.Sound.deviceRead {n : BitVec 7} (h : s.deviceRead n = .ok t) : t.Sound := by
  unfold State.deviceRead at h
  split at h
  · cases h
    exact hs.portRead _
  · split at h
    · cases h
    · next q =>
      cases h
      exact hs.eruRead q

/-- A message of another device. -/
theorem State.Sound.deviceMessage {m : BusMessage} (h : s.deviceMessage m = .ok t) : t.Sound := by
  cases m with
  | realFetch a =>
    cases h
    exact hs.deviceFetch a
  | realStore a tags d =>
    unfold State.deviceMessage at h
    cases h
    split
    · exact hs.deviceFetch a
    · exact hs.realStore _ _ _ _
  | binWrite d => exact hs.deviceWrite h
  | eruWrite n d => exact hs.deviceWrite h
  | eruRead n => exact hs.deviceRead h

/-- Messages of other devices. -/
theorem State.Sound.deviceMessages {ms : List BusMessage} (h : s.deviceMessages ms = .ok t) : t.Sound := by
  induction ms generalizing s with
  | nil =>
    cases h
    exact hs
  | cons m ms ih =>
    unfold State.deviceMessages at h
    split at h
    · cases h
    · next q => exact ih (hs.deviceMessage q) h

/-- A refresh. -/
theorem State.Sound.refreshWord : s.refreshWord.Sound := by
  have hm := s.wf_refreshWord hs.mem
  have hr : (s.startRefresh.eccRead true s.refreshPlace).2.Sound := State.Sound.eccRead (s := s.startRefresh) hs _ _
  unfold State.refreshWord at hm ⊢
  simp only [] at hm ⊢
  generalize s.startRefresh.eccRead true s.refreshPlace = r at hr hm
  obtain ⟨⟨d, e⟩, u⟩ := r
  simp only [] at hm ⊢
  split
  · exact hr
  · next h =>
    rw [if_neg h] at hm
    exact { hr with mem := hm }

/-- The events before a cycle. -/
theorem State.Sound.begin (h : s.begin = .ok t) : t.Sound := by
  have hi : s.takeInput.clearOutputs.Sound := by
    unfold State.takeInput
    split <;> exact hs
  unfold State.begin State.between at h
  simp only [] at h
  generalize s.takeInput.clearOutputs = u at hi h
  have hu : (if u.plat.atcPresent then u.tick u.now.todTicks else u).Sound := by
    split
    · exact hi.tick _
    · exact hi
  split at h
  · cases h
  · next v q =>
    have hv : v.Sound := hu.deviceMessages q
    cases h
    split
    · exact hv.refreshWord
    · exact hv

/-! ### The execute slot -/

/-- A fetched word that gets older. -/
theorem State.Sound.ageFetch : s.ageFetch.Sound := by
  unfold State.ageFetch
  split
  · exact hs
  · split
    · exact hs.dropFetch
    · exact hs

/-- What follows an execution. -/
theorem State.Sound.afterExec (i : Instr) (u : State) : (afterExec i u s).Sound := by
  unfold Sys2Proof.Machine.afterExec
  simp only []
  split
  · exact hs
  · exact State.Sound.ageFetch (s := s.setPrev _) hs

/-- The instruction executes, or is refused. -/
theorem State.Sound.executeSlot (i : Instr) : Lands (executeSlot i s) State.Sound := by
  unfold Sys2Proof.Machine.executeSlot
  split
  · exact lands_refused
  · exact lands_andThen (exec_sound i s hs) fun t ht => lands_next (ht.afterExec i s)

/-- A voided slot counts a skip count of 1 or 2 down. -/
theorem State.Sound.voidedSlot (h : s.slot = .ok none) : s.voidedSlot.Sound := by
  have h0 : s.pipe.skip ≠ 0#2 := by
    intro q
    unfold State.slot at h
    rw [if_pos q] at h
    split at h <;> cases h
  have h3 := hs.skip
  have hk : s.pipe.skip - 1 ≠ 3#2 := by
    generalize s.pipe.skip = k at h0 h3
    revert k
    decide
  exact State.Sound.ageFetch (s := ({ s with pipe := { s.pipe with skip := s.pipe.skip - 1 } } : State).setPrev none) { hs with skip := hk }

/-! ### The end of a cycle -/

/-- The C.C. MATCH of a cycle before. -/
theorem State.Sound.writeMatch : s.writeMatch.Sound := by
  unfold State.writeMatch
  split <;> exact hs

/-- X1 of the ATC. -/
theorem State.Sound.atcX1 : s.atcX1.Sound := by
  unfold State.atcX1
  split
  · have hp : (s.post (itaBit 4 (s.atc.tod == s.atc.itmr && !s.todInhibited) ||| itaBit 12 s.now.spint)).Sound :=
      hs.post ((implemented_itaBit _ (by decide)).or (implemented_itaBit _ (by decide)))
    simp only []
    split <;> exact hp
  · exact hs

/-- X1. -/
theorem State.Sound.x1 : s.x1.Sound := by
  unfold State.x1
  split
  · exact hs.writeMatch.atcX1.setIndAt 7 false
  · exact hs.writeMatch.atcX1

/-- A held cycle. -/
theorem State.Sound.held : s.held.Sound := by
  have ha : s.ageAborted.Sound := by
    unfold State.ageAborted
    split <;> exact hs
  exact State.Sound.x1 (s := s.ageAborted.deferMatch) ha

/-- The pipeline moves on: the Breakpoint RAM stays in canonical form. -/
theorem State.Sound.shiftPipe (a : Half) : (s.shiftPipe a).Sound := by
  have hr : Table.canonical false (s.bkptAdvance a).ram = true := by
    unfold State.bkptAdvance
    dsimp only
    split
    · exact Table.canonical_set _ _ _ _ hs.ram
    · exact hs.ram
  exact { hs with ram := hr }

/-- The Restore FIFO clocked. -/
theorem State.Sound.fifoClock : s.fifoClock.Sound := by
  unfold State.fifoClock
  split <;> exact hs

/-- A trap or an interrupt taken. -/
theorem State.Sound.enter (e : Entry) : (s.enter e).Sound := by
  have hf : s.saveFlow.Sound := by
    unfold State.saveFlow
    split <;> exact hs
  have hm : (s.saveFlow.markEntry e).Sound := by cases e <;> exact hf
  have hp : ((s.saveFlow.markEntry e).presentNothing.shiftPipe e.vector).Sound :=
    State.Sound.shiftPipe (s := (s.saveFlow.markEntry e).presentNothing) hm e.vector
  exact hp.void (n := 2) (by decide)

/-- The end of a cycle that is not held. -/
theorem State.Sound.finish (e : Option Entry) : (s.finish e).Sound := by
  cases e with
  | none => exact hs.x1.fifoClock.shiftPipe _
  | some e => exact hs.x1.enter e

/-- A cycle of a reset. -/
theorem State.Sound.resetActions : s.resetActions.Sound := by
  have hw := hs.writeMatch
  have ha : Implemented (if s.writeMatch.plat.atcPresent then s.writeMatch.atc.resetBy s.writeMatch.plat.resetClearsRr
      else s.writeMatch.atc).ita ∧ allReferenced (if s.writeMatch.plat.atcPresent then
        s.writeMatch.atc.resetBy s.writeMatch.plat.resetClearsRr else s.writeMatch.atc).am = false := by
    split
    · refine ⟨hw.ita.set (by decide), ?_⟩
      unfold Atc.resetBy
      dsimp only
      split
      · exact allReferenced_cleared _
      · exact hw.am
    · exact ⟨hw.ita, hw.am⟩
  exact { hw with ita := ha.1, am := ha.2, skip := (by decide : (2 : BitVec 2) ≠ 3#2) }

end Sound

/-! ### What a cycle leaves over -/

/-- X1 writes the match that was due. -/
theorem State.x1_settles (s : State) (hj : s.pipe.crNext = none) (hf : s.pipe.fifoShifted = false) (hb : s.bkpt.presents = none) :
    s.x1.Settled := by
  have hw : s.writeMatch.Settled := by
    unfold State.writeMatch
    split
    · exact ⟨hj, hf, hb, rfl⟩
    · next h => exact ⟨hj, hf, hb, h⟩
  have ha : s.writeMatch.atcX1.Settled := by
    unfold State.atcX1
    split
    · simp only []
      split <;> exact hw
    · exact hw
  unfold State.x1
  split <;> exact ha

/-- X1 leaves no match due. -/
theorem State.x1_dueMatch (s : State) : s.x1.pipe.dueMatch = none := by
  have hw : s.writeMatch.pipe.dueMatch = none := by
    unfold State.writeMatch
    split
    · rfl
    · assumption
  have ha : s.writeMatch.atcX1.pipe = s.writeMatch.pipe := by
    unfold State.atcX1
    split
    · simp only []
      split <;> rfl
    · rfl
  have hx : s.x1.pipe = s.writeMatch.atcX1.pipe := by
    unfold State.x1
    split <;> rfl
  rw [hx, ha, hw]

/-- A held cycle leaves nothing over that was not there at its start. -/
theorem State.held_settled (s : State) (hj : s.pipe.crNext = none) (hf : s.pipe.fifoShifted = false) (hb : s.bkpt.presents = none) :
    s.held.Settled := by
  have ha : s.ageAborted.pipe = s.pipe ∧ s.ageAborted.bkpt = s.bkpt := by
    unfold State.ageAborted
    split <;> exact ⟨rfl, rfl⟩
  exact s.ageAborted.deferMatch.x1_settles (by rw [← hj, ← ha.1]; rfl) (by rw [← hf, ← ha.1]; rfl) (by rw [← hb, ← ha.2]; rfl)

/-- The end of a cycle that is not held leaves nothing over. -/
theorem State.finish_settled (s : State) (e : Option Entry) : (s.finish e).Settled := by
  have hd := s.x1_dueMatch
  cases e with
  | none =>
    refine ⟨rfl, rfl, rfl, ?_⟩
    rw [← hd]
    show s.x1.fifoClock.pipe.dueMatch = _
    unfold State.fifoClock
    split <;> rfl
  | some e =>
    refine ⟨rfl, rfl, rfl, ?_⟩
    rw [← hd]
    show (s.x1.saveFlow.markEntry e).pipe.dueMatch = _
    unfold State.saveFlow
    cases e <;> split <;> rfl

/-- A cycle of a reset leaves nothing over. -/
theorem State.resetActions_settled (s : State) : s.resetActions.Settled := by
  refine ⟨rfl, rfl, rfl, ?_⟩
  show s.writeMatch.pipe.dueMatch = none
  unfold State.writeMatch
  split
  · rfl
  · assumption

/-! ### The cycle and the step -/

/-- A state in which a cycle can start: sound, and no jump, FIFO move or breakpoint presentation left over. -/
structure State.Ready (s : State) : Prop where
  sound : s.Sound
  crNext : s.pipe.crNext = none
  fifoShifted : s.pipe.fifoShifted = false
  presents : s.bkpt.presents = none

/-- A held cycle. -/
theorem State.Ready.held {s : State} (h : s.Ready) : s.held.Inv :=
  (State.inv_iff _).mpr ⟨h.sound.held, s.held_settled h.crNext h.fifoShifted h.presents⟩

/-- The end of a cycle that is not held. -/
theorem State.Sound.inv_finish {s : State} (h : s.Sound) (e : Option Entry) : (s.finish e).Inv :=
  (State.inv_iff _).mpr ⟨h.finish e, s.finish_settled e⟩

/-- A cycle of a reset. -/
theorem State.Sound.inv_resetActions {s : State} (h : s.Sound) : s.resetActions.Inv :=
  (State.inv_iff _).mpr ⟨h.resetActions, s.resetActions_settled⟩

/-- A cycle without reset. -/
theorem State.Ready.runCycle {s : State} (h : s.Ready) : Lands s.runCycle State.Inv := by
  unfold State.runCycle
  split
  · exact lands_next h.held
  · split
    · exact lands_refused
    · next q => exact lands_next ((h.sound.voidedSlot q).inv_finish _)
    · split
      · exact lands_next h.held
      · exact lands_andThen (h.sound.executeSlot _) fun t ht => lands_next (ht.inv_finish _)

/-- What the first cycle of a reset executes. -/
theorem State.Sound.resetSlot {s : State} (h : s.Sound) : Lands s.resetSlot State.Sound := by
  unfold State.resetSlot
  split
  · exact lands_next h
  · split
    · exact lands_refused
    · next q => exact lands_next (h.voidedSlot q)
    · split
      · exact lands_next h
      · exact State.Sound.executeSlot (s := { s with pipe := { s.pipe with fieldCycles := 1 } }) h _

/-- A cycle of a reset. -/
theorem State.Sound.resetCycle {s : State} (h : s.Sound) : Lands s.resetCycle State.Inv := by
  unfold State.resetCycle
  split
  · exact lands_next h.inv_resetActions
  · split
    · exact lands_refused
    · exact lands_andThen h.resetSlot fun t ht =>
        lands_next (State.Sound.inv_resetActions (s := t.fifoClock.setFifoRun false) ht.fifoClock)

/-- A cycle. -/
theorem State.Ready.cycle {s : State} (h : s.Ready) : Lands s.cycle State.Inv := by
  unfold State.cycle
  split
  · exact h.sound.resetCycle
  · split
    · exact lands_refused
    · exact State.Ready.runCycle ⟨h.sound, h.crNext, h.fifoShifted, h.presents⟩

/-- The events before a cycle leave a state in which it can start. -/
theorem State.Inv.ready {s b : State} (h : s.Inv) (hb : s.begin = .ok b) : b.Ready := by
  obtain ⟨hs, hj, hf, hp, _⟩ := s.inv_iff.mp h
  obtain ⟨_, pipe, _, _, presents, _⟩ := State.begin_spec hb
  exact ⟨hs.begin hb, by rw [pipe]; exact hj, by rw [pipe]; exact hf, by rw [presents]; exact hp⟩

/-- Settles O60: the parts of the invariant that outlast a cycle are kept by each event before it, by each instruction and by the end of
the cycle, and that end leaves nothing over. -/
theorem stepKeepsInvariant : Obligations.StepKeepsInvariant := by
  unfold Obligations.StepKeepsInvariant
  intro s t hs ht
  unfold step at ht
  split at ht
  · cases ht
  · next b hb => exact (hs.ready hb).cycle t ht

/-- Settles O59: the state after reset, evaluated. -/
theorem resetSatisfiesInvariant : Obligations.ResetSatisfiesInvariant := by
  unfold Obligations.ResetSatisfiesInvariant
  decide

end Sys2Proof.Machine
end

section
/-! Sums, differences and orders of words and bytes, and the logical instructions (43; 44). -/

namespace Sys2Proof.Machine

/-! ### Sums and differences -/

/-- A word sum put in its register with its indicators. -/
theorem State.putSum_addsWord (s : State) (j : RsuNum) (a b : Word) (c : Bool) :
    AddsWord s (s.putSum j (addC a b c)) j a b c.toNat := by
  obtain ⟨value, carry, overflow, sign⟩ := s.putSum_spec j (addC a b c)
  exact ⟨value.trans (addC_value a b c), by rw [carry, addC_carry], by rw [overflow, addC_overflow], by rw [value]; exact sign,
    s.frame_putSum j _⟩

/-- A word difference put in its register with its indicators; the carry in is 1 for no borrow. -/
theorem State.putSum_subtractsWord (s : State) (j : RsuNum) (a b : Word) (c : Bool) :
    SubtractsWord s (s.putSum j (subC a b c)) j a b (1 - c.toNat) := by
  obtain ⟨value, carry, overflow, sign⟩ := s.putSum_spec j (subC a b c)
  exact ⟨value.trans (subC_value a b c), by rw [carry, subC_carry], by rw [overflow, subC_overflow], by rw [value]; exact sign,
    s.frame_putSum j _⟩

/-- A byte sum put in its byte with its indicators. -/
theorem State.putByteSum_addsByte (s : State) (j : ByteAddr) (a b : Byte) (c : Bool) :
    AddsByte s (s.putByteSum j (addC a b c).value (addC a b c).carry) j a b c.toNat := by
  obtain ⟨value, carry, sign, others⟩ := s.putByteSum_spec j (addC a b c).value (addC a b c).carry
  exact ⟨value.trans (addC_value a b c), by rw [carry, addC_carry], by rw [value]; exact sign, others, s.frame_putByteSum j _ _⟩

/-- A byte difference put in its byte with its indicators; the carry in is 1 for no borrow. -/
theorem State.putByteSum_subtractsByte (s : State) (j : ByteAddr) (a b : Byte) (c : Bool) :
    SubtractsByte s (s.putByteSum j (subC a b c).value (subC a b c).carry) j a b (1 - c.toNat) := by
  obtain ⟨value, carry, sign, others⟩ := s.putByteSum_spec j (subC a b c).value (subC a b c).carry
  exact ⟨value.trans (subC_value a b c), by rw [carry, subC_carry], by rw [value]; exact sign, others, s.frame_putByteSum j _ _⟩

/-- A literal widened keeps its value. -/
theorem setWidth_eq_ofNat {v : Nat} (w : Nat) (x : BitVec v) : x.setWidth w = BitVec.ofNat w x.toNat :=
  BitVec.eq_of_toNat_eq (by simp)

/-- Settles O1: the six instructions put a sum or a difference with its indicators; they differ in the second operand and the carry in. -/
theorem wordSumsAndDifferences : Obligations.WordSumsAndDifferences := by
  constructor
  · exact fun j k l s => ⟨⟨_, rfl, s.putSum_addsWord j _ _ false⟩, ⟨_, rfl, s.putSum_addsWord j _ _ (s.indAt 4)⟩,
      ⟨_, rfl, by rw [← setWidth_eq_ofNat]; exact s.putSum_addsWord j _ (litWord l) false⟩⟩
  · exact fun j k l s => ⟨⟨_, rfl, s.putSum_subtractsWord j _ _ true⟩, ⟨_, rfl, s.putSum_subtractsWord j _ _ (s.indAt 4)⟩,
      ⟨_, rfl, by rw [← setWidth_eq_ofNat]; exact s.putSum_subtractsWord j _ (litWord l) true⟩⟩

/-- Settles O4: the five instructions put a byte sum or difference with its indicators. -/
theorem byteSumsAndDifferences : Obligations.ByteSumsAndDifferences := by
  constructor
  · exact fun j k s => ⟨⟨_, rfl, s.putByteSum_addsByte j _ _ false⟩, ⟨_, rfl, s.putByteSum_addsByte j _ _ (s.indAt 4)⟩⟩
  · exact fun j k l s => ⟨⟨_, rfl, s.putByteSum_subtractsByte j _ _ true⟩, ⟨_, rfl, s.putByteSum_subtractsByte j _ _ (s.indAt 4)⟩,
      ⟨_, rfl, by rw [← setWidth_eq_ofNat]; exact s.putByteSum_subtractsByte j _ (l.setWidth 8) true⟩⟩

/-! ### Orders -/

/-- I1 to I3 written. -/
theorem State.orderOf_setOrder (s : State) {a b c : Bool} {lt eq gt : Prop} (ha : a = true ↔ lt) (hb : b = true ↔ eq)
    (hc : c = true ↔ gt) : OrderOf (s.setOrder a b c) lt eq gt := by
  unfold OrderOf
  rw [State.indAt_setOrder _ _ _ _ _ (by decide), State.indAt_setOrder _ _ _ _ _ (by decide),
    State.indAt_setOrder _ _ _ _ _ (by decide)]
  exact ⟨ha, hb, hc⟩

/-- The signed order. -/
theorem State.orderOf_orderSigned {w : Nat} (s : State) (a b : BitVec w) :
    OrderOf (s.orderSigned a b) (a.toInt < b.toInt) (a = b) (b.toInt < a.toInt) :=
  s.orderOf_setOrder decide_eq_true_iff beq_iff_eq decide_eq_true_iff

/-- The unsigned order. -/
theorem State.orderOf_orderUnsigned {w : Nat} (s : State) (a b : BitVec w) :
    OrderOf (s.orderUnsigned a b) (a.toNat < b.toNat) (a = b) (b.toNat < a.toNat) :=
  s.orderOf_setOrder decide_eq_true_iff beq_iff_eq decide_eq_true_iff

/-- Settles O3: the four compares write I1 to I3 with the signed or the unsigned order. -/
theorem wordAndByteOrders : Obligations.WordAndByteOrders := fun _ _ _ _ s =>
  ⟨⟨_, rfl, s.frame_setOrder _ _ _, s.orderOf_orderSigned _ _⟩, ⟨_, rfl, s.frame_setOrder _ _ _, s.orderOf_orderUnsigned _ _⟩,
    ⟨_, rfl, s.frame_setOrder _ _ _, s.orderOf_orderSigned _ _⟩, ⟨_, rfl, s.frame_setOrder _ _ _, s.orderOf_orderUnsigned _ _⟩⟩

/-! ### Logic -/

/-- A word with its sign: the register, I1 to I3, nothing else (43 R480). -/
theorem State.putWordNzp_spec (s : State) (j : RsuNum) (r : Word) :
    (s.putWordNzp j r).rsu j = r ∧ SignOf (s.putWordNzp j r) r.toInt ∧ Frame s (s.putWordNzp j r) [j] [1, 2, 3] :=
  ⟨s.rsu_setRsu_same j r, State.signOf_nzp _ _, (s.frame_setRsu j r).trans (State.frame_nzp _ r)⟩

/-- A byte with its sign: the byte, I1 to I3, nothing else (43 R480). -/
theorem State.putByteNzp_spec (s : State) (j : ByteAddr) (r : Byte) :
    (s.putByteNzp j r).byteOp j = r ∧ SignOf (s.putByteNzp j r) r.toInt ∧ KeepsOtherBytes s (s.putByteNzp j r) j ∧
      Frame s (s.putByteNzp j r) [byteReg j] [1, 2, 3] :=
  ⟨(s.byteOp_setByteOp j j r).trans (if_pos rfl), State.signOf_nzp _ _, s.keeps_setByteOp j r,
    (s.frame_setByteOp j r).trans (State.frame_nzp _ r)⟩

/-- A logical instruction on words, its result given bit by bit. -/
theorem State.putWordNzp_bits (s : State) (j : RsuNum) {r : Word} {f : Nat → Bool} (hr : ∀ n, n < 32 → r.getLsbD n = f n) :
    (∀ n, n < 32 → ((s.putWordNzp j r).rsu j).getLsbD n = f n) ∧ SignOf (s.putWordNzp j r) ((s.putWordNzp j r).rsu j).toInt ∧
      Frame s (s.putWordNzp j r) [j] [1, 2, 3] := by
  obtain ⟨value, sign, frame⟩ := s.putWordNzp_spec j r
  rw [value]
  exact ⟨hr, sign, frame⟩

/-- A logical instruction on bytes, its result given bit by bit. -/
theorem State.putByteNzp_bits (s : State) (j : ByteAddr) {r : Byte} {f : Nat → Bool} (hr : ∀ n, n < 8 → r.getLsbD n = f n) :
    (∀ n, n < 8 → ((s.putByteNzp j r).byteOp j).getLsbD n = f n) ∧ SignOf (s.putByteNzp j r) ((s.putByteNzp j r).byteOp j).toInt ∧
      KeepsOtherBytes s (s.putByteNzp j r) j ∧ Frame s (s.putByteNzp j r) [byteReg j] [1, 2, 3] := by
  obtain ⟨value, sign, others, frame⟩ := s.putByteNzp_spec j r
  rw [value]
  exact ⟨hr, sign, others, frame⟩

/-- The complement bit by bit. -/
theorem getLsbD_complement {w : Nat} (x : BitVec w) {n : Nat} (h : n < w) : (~~~x).getLsbD n = !x.getLsbD n := by
  rw [BitVec.getLsbD_not, decide_eq_true h, Bool.true_and]

/-- The exclusive or bit by bit. -/
theorem getLsbD_exclusive {w : Nat} (x y : BitVec w) (n : Nat) : (x ^^^ y).getLsbD n = (x.getLsbD n != y.getLsbD n) :=
  BitVec.getLsbD_xor

/-- Settles O6: each instruction puts a word or a byte with its sign, which is given bit by bit. -/
theorem wordAndByteLogic : Obligations.WordAndByteLogic := by
  constructor
  · exact fun j k s => ⟨⟨_, rfl, s.putWordNzp_bits j fun _ _ => BitVec.getLsbD_and⟩,
      ⟨_, rfl, s.putWordNzp_bits j fun _ _ => BitVec.getLsbD_or⟩, ⟨_, rfl, s.putWordNzp_bits j fun n _ => getLsbD_exclusive _ _ n⟩,
      ⟨_, rfl, s.putWordNzp_bits j fun _ h => getLsbD_complement _ h⟩⟩
  · exact fun j k s => ⟨⟨_, rfl, s.putByteNzp_bits j fun _ _ => BitVec.getLsbD_and⟩,
      ⟨_, rfl, s.putByteNzp_bits j fun _ _ => BitVec.getLsbD_or⟩, ⟨_, rfl, s.putByteNzp_bits j fun n _ => getLsbD_exclusive _ _ n⟩,
      ⟨_, rfl, s.putByteNzp_bits j fun _ h => getLsbD_complement _ h⟩⟩

/-! ### Digits -/

/-- A bit of the left digit. -/
theorem getLsbD_leftDigit (b : Byte) {n : Nat} (h : n < 4) : (leftDigit b).getLsbD n = b.getLsbD (n + 4) := by
  unfold leftDigit
  rw [BitVec.getLsbD_extractLsb', decide_eq_true h, Bool.true_and, Nat.add_comm]

/-- A bit of the right digit. -/
theorem getLsbD_rightDigit (b : Byte) {n : Nat} (h : n < 4) : (rightDigit b).getLsbD n = b.getLsbD n := by
  unfold rightDigit
  rw [BitVec.getLsbD_extractLsb', decide_eq_true h, Bool.true_and, Nat.zero_add]

/-- The bits of two digits in one byte. -/
theorem getLsbD_digits (l r : Digit) {n : Nat} (h : n < 4) :
    (l ++ r : Byte).getLsbD (n + 4) = l.getLsbD n ∧ (l ++ r : Byte).getLsbD n = r.getLsbD n := by
  rw [BitVec.getLsbD_append, BitVec.getLsbD_append, if_neg (by omega), if_pos h, Nat.add_sub_cancel]
  exact ⟨rfl, rfl⟩

/-- The indicators of a digit: I2 says zero, I1 and I3 are free (43 R491). -/
theorem State.digitFlags_spec (s : State) (d : Digit) :
    ((s.digitFlags d).indAt 2 = true ↔ d.toNat = 0) ∧ Frame s (s.digitFlags d) [] [1, 2, 3] := by
  constructor
  · unfold State.digitFlags
    rw [State.indAt_setOrder _ _ _ _ _ (by decide)]
    simp [← BitVec.toNat_inj]
  · exact (show Frame s s.drawBit.2.drawBit.2 [] [] from Frame.refl s).trans (State.frame_setOrder _ _ _ _)

/-- The byte `b` put in `BJ` with the indicators of the digit `d`. -/
theorem State.putDigit_spec (s : State) (j : ByteAddr) (b : Byte) (d : Digit) :
    ((s.setByteOp j b).digitFlags d).byteOp j = b ∧ (((s.setByteOp j b).digitFlags d).indAt 2 = true ↔ d.toNat = 0) ∧
      KeepsOtherBytes s ((s.setByteOp j b).digitFlags d) j ∧ Frame s ((s.setByteOp j b).digitFlags d) [byteReg j] [1, 2, 3] := by
  obtain ⟨zero, frame⟩ := (s.setByteOp j b).digitFlags_spec d
  exact ⟨(s.byteOp_setByteOp j j b).trans (if_pos rfl), zero, s.keeps_setByteOp j b, (s.frame_setByteOp j b).trans frame⟩

/-- A digit put in the left half of `BJ`, given bit by bit. -/
theorem State.putLeftDigit_bits (s : State) (j : ByteAddr) {d : Digit} {f : Nat → Bool} (hd : ∀ n, n < 4 → d.getLsbD n = f n) :
    (∀ n, n < 4 → ((s.putLeftDigit j d).byteOp j).getLsbD (n + 4) = f n) ∧
      (∀ n, n < 4 → ((s.putLeftDigit j d).byteOp j).getLsbD n = (s.byteOp j).getLsbD n) ∧
      ((s.putLeftDigit j d).indAt 2 = true ↔ ((s.putLeftDigit j d).byteOp j).toNat < 16) ∧
      KeepsOtherBytes s (s.putLeftDigit j d) j ∧ Frame s (s.putLeftDigit j d) [byteReg j] [1, 2, 3] := by
  obtain ⟨value, zero, others, frame⟩ := s.putDigit_spec j (d ++ rightDigit (s.byteOp j)) d
  unfold State.putLeftDigit
  rw [value, zero, toNat_join]
  have hr := (rightDigit (s.byteOp j)).isLt
  exact ⟨fun n hn => (getLsbD_digits _ _ hn).1.trans (hd n hn),
    fun n hn => (getLsbD_digits _ _ hn).2.trans (getLsbD_rightDigit _ hn), by omega, others, frame⟩

/-- A digit put in the right half of `BJ`, given bit by bit. -/
theorem State.putRightDigit_bits (s : State) (j : ByteAddr) {d : Digit} {f : Nat → Bool} (hd : ∀ n, n < 4 → d.getLsbD n = f n) :
    (∀ n, n < 4 → ((s.putRightDigit j d).byteOp j).getLsbD n = f n) ∧
      (∀ n, n < 4 → ((s.putRightDigit j d).byteOp j).getLsbD (n + 4) = (s.byteOp j).getLsbD (n + 4)) ∧
      ((s.putRightDigit j d).indAt 2 = true ↔ ((s.putRightDigit j d).byteOp j).toNat % 16 = 0) ∧
      KeepsOtherBytes s (s.putRightDigit j d) j ∧ Frame s (s.putRightDigit j d) [byteReg j] [1, 2, 3] := by
  obtain ⟨value, zero, others, frame⟩ := s.putDigit_spec j (leftDigit (s.byteOp j) ++ d) d
  unfold State.putRightDigit
  rw [value, zero, toNat_join]
  have hr := d.isLt
  exact ⟨fun n hn => (getLsbD_digits _ _ hn).2.trans (hd n hn),
    fun n hn => (getLsbD_digits _ _ hn).1.trans (getLsbD_leftDigit _ hn), by omega, others, frame⟩

/-- Settles O7: each instruction puts a digit beside the other one, which is given bit by bit. -/
theorem digitLogic : Obligations.DigitLogic := by
  intro j l s
  have left := fun n (hn : n < 4) => getLsbD_leftDigit (s.byteOp j) hn
  have right := fun n (hn : n < 4) => getLsbD_rightDigit (s.byteOp j) hn
  exact ⟨⟨_, rfl, s.putLeftDigit_bits j fun n hn => by rw [BitVec.getLsbD_and, left n hn]⟩,
    ⟨_, rfl, s.putLeftDigit_bits j fun n hn => by rw [BitVec.getLsbD_or, left n hn]⟩,
    ⟨_, rfl, s.putLeftDigit_bits j fun n hn => by rw [getLsbD_exclusive, left n hn]⟩,
    ⟨_, rfl, s.putRightDigit_bits j fun n hn => by rw [BitVec.getLsbD_and, right n hn]⟩,
    ⟨_, rfl, s.putRightDigit_bits j fun n hn => by rw [BitVec.getLsbD_or, right n hn]⟩,
    ⟨_, rfl, s.putRightDigit_bits j fun n hn => by rw [getLsbD_exclusive, right n hn]⟩⟩

end Sys2Proof.Machine
end

section
/-! The decimal bytes (44 R522, R550 to R553, R560). -/

namespace Sys2Proof.Machine

/-! ### Decimal digits and bytes -/

/-- A decimal digit is at most 9. -/
theorem isDecimal_iff (d : Digit) : isDecimal d = true ↔ d.toNat ≤ 9 := decide_eq_true_iff

/-- A packed byte holds two decimal digits. -/
theorem isPacked_iff (b : Byte) : isPacked b = true ↔ (leftDigit b).toNat ≤ 9 ∧ (rightDigit b).toNat ≤ 9 := by
  unfold isPacked
  rw [Bool.and_eq_true, isDecimal_iff, isDecimal_iff]

/-- The digits of a byte put together from two. -/
theorem digits_append (l r : Digit) : leftDigit (l ++ r) = l ∧ rightDigit (l ++ r) = r := by
  have hr := r.isLt
  constructor
  · exact BitVec.eq_of_toNat_eq (by rw [toNat_leftDigit, toNat_join]; omega)
  · exact BitVec.eq_of_toNat_eq (by rw [toNat_rightDigit, toNat_join]; omega)

/-- The number of a packed byte. -/
theorem bcdValue_append (l r : Digit) : bcdValue (l ++ r) = 10 * l.toNat + r.toNat := by
  unfold bcdValue
  rw [(digits_append l r).1, (digits_append l r).2]

/-- The sum of two decimal digits with a carry (R522). -/
theorem dadd_spec {x y : Digit} (c : Bool) (hx : x.toNat ≤ 9) (hy : y.toNat ≤ 9) :
    (dadd x y c).1.toNat ≤ 9 ∧ (dadd x y c).1.toNat + 10 * (dadd x y c).2.toNat = x.toNat + y.toNat + c.toNat := by
  have hc := c.toNat_le
  unfold dadd
  dsimp only
  split
  · rw [BitVec.toNat_ofNat, Bool.toNat_true]
    omega
  · rw [BitVec.toNat_ofNat, Bool.toNat_false]
    omega

/-- The difference of two decimal digits; the carry is 1 for no borrow (R522). -/
theorem dsub_spec {x y : Digit} (c : Bool) (hx : x.toNat ≤ 9) (hy : y.toNat ≤ 9) :
    (dsub x y c).1.toNat ≤ 9 ∧
      (dsub x y c).1.toNat + 10 * (dsub x y c).2.toNat + y.toNat + (1 - c.toNat) = x.toNat + 10 := by
  have hc := c.toNat_le
  unfold dsub
  dsimp only
  split
  · rw [BitVec.toNat_ofNat, Bool.toNat_false]
    omega
  · rw [BitVec.toNat_ofNat, Bool.toNat_true]
    omega

/-- The sum of two packed bytes with a carry (R522). -/
theorem padd_spec {a b : Byte} (c : Bool) (ha : isPacked a = true) (hb : isPacked b = true) :
    isPacked (padd a b c).1 = true ∧ bcdValue (padd a b c).1 + 100 * (padd a b c).2.toNat = bcdValue a + bcdValue b + c.toNat := by
  rw [isPacked_iff] at ha hb
  obtain ⟨lo, lo'⟩ := dadd_spec c ha.2 hb.2
  obtain ⟨hi, hi'⟩ := dadd_spec (dadd (rightDigit a) (rightDigit b) c).2 ha.1 hb.1
  unfold padd packed
  dsimp only
  rw [isPacked_iff, (digits_append _ _).1, (digits_append _ _).2, bcdValue_append]
  refine ⟨⟨hi, lo⟩, ?_⟩
  unfold bcdValue
  omega

/-- The difference of two packed bytes; the carry is 1 for no borrow (R522). -/
theorem psub_spec {a b : Byte} (c : Bool) (ha : isPacked a = true) (hb : isPacked b = true) :
    isPacked (psub a b c).1 = true ∧
      bcdValue (psub a b c).1 + 100 * (psub a b c).2.toNat + bcdValue b + (1 - c.toNat) = bcdValue a + 100 := by
  rw [isPacked_iff] at ha hb
  obtain ⟨lo, lo'⟩ := dsub_spec c ha.2 hb.2
  obtain ⟨hi, hi'⟩ := dsub_spec (dsub (rightDigit a) (rightDigit b) c).2 ha.1 hb.1
  have hc := (dsub (rightDigit a) (rightDigit b) c).2.toNat_le
  unfold psub packed
  dsimp only
  rw [isPacked_iff, (digits_append _ _).1, (digits_append _ _).2, bcdValue_append]
  refine ⟨⟨hi, lo⟩, ?_⟩
  unfold bcdValue
  omega

/-- The number of a packed byte has two decimal places. -/
theorem bcdValue_lt {b : Byte} (h : isPacked b = true) : bcdValue b < 100 := by
  rw [isPacked_iff] at h
  unfold bcdValue
  omega

/-! ### The checks -/

/-- I5 and I6 after the check of a byte (R560). -/
theorem State.indAt_bcdCheck (s : State) (both : Bool) (v : Byte) :
    (s.bcdCheck both v).indAt 5 = (s.indAt 5 || badDigit both v) ∧ (s.bcdCheck both v).indAt 6 = (s.indAt 6 || leftDigit v != 3#4) := by
  unfold State.bcdCheck
  rw [State.indAt_setIndAt _ 6 5 _ (by decide) (by decide) (by decide), if_neg (by decide),
    State.indAt_setIndAt _ 5 5 _ (by decide) (by decide) (by decide), if_pos rfl,
    State.indAt_setIndAt _ 6 6 _ (by decide) (by decide) (by decide), if_pos rfl]
  exact ⟨rfl, rfl⟩

/-- A byte with a digit above 9, both digits counting. -/
theorem badDigit_iff (v : Byte) : badDigit true v = true ↔ ¬(leftDigit v).toNat ≤ 9 ∨ ¬(rightDigit v).toNat ≤ 9 := by
  simp only [badDigit, isDecimal, Bool.true_and, Bool.or_eq_true, Bool.not_eq_true', decide_eq_false_iff_not]

/-- The check of one byte. -/
theorem State.checksBytes_one (s : State) (v : Byte) : ChecksBytes s (s.bcdCheck true v) [v] := by
  obtain ⟨five, six⟩ := s.indAt_bcdCheck true v
  constructor
  · rw [five, Bool.or_eq_true, badDigit_iff]
    simp
  · rw [six, Bool.or_eq_true, bne_iff_ne]
    simp

/-- Checks in a row. -/
theorem ChecksBytes.trans {s t u : State} {as bs : List Byte} (h : ChecksBytes s t as) (g : ChecksBytes t u bs) :
    ChecksBytes s u (as ++ bs) := by
  obtain ⟨h5, h6⟩ := h
  obtain ⟨g5, g6⟩ := g
  constructor
  · rw [g5, h5]
    simp only [List.mem_append, or_and_right, exists_or, or_assoc]
  · rw [g6, h6]
    simp only [List.mem_append, or_and_right, exists_or, or_assoc]

/-- What keeps I5 and I6 keeps the checks. -/
theorem ChecksBytes.of_kept {s t u : State} {bs : List Byte} (h : ChecksBytes s t bs) (h5 : u.indAt 5 = t.indAt 5)
    (h6 : u.indAt 6 = t.indAt 6) : ChecksBytes s u bs := by
  unfold ChecksBytes
  rw [h5, h6]
  exact h

/-- The checks of two bytes, nothing else changed. -/
theorem State.checkTwo_spec (s : State) (a b : Byte) :
    ChecksBytes s ((s.bcdCheck true a).bcdCheck true b) [a, b] ∧ Frame s ((s.bcdCheck true a).bcdCheck true b) [] [5, 6] :=
  ⟨(s.checksBytes_one a).trans (State.checksBytes_one _ b),
    ((s.frame_bcdCheck true a).trans (State.frame_bcdCheck _ true b)).mono (by simp) (by simp)⟩

/-! ### The instructions -/

/-- A frame without registers keeps every byte operand. -/
theorem Frame.byteOp {s t : State} {ns : List Nat} (h : Frame s t [] ns) (a : ByteAddr) : t.byteOp a = s.byteOp a := by
  obtain ⟨regs, -⟩ := h
  unfold State.byteOp
  rw [regs _ (by simp)]

/-- A packed result draws at most two free values; with decimal digits it is computed (R522). -/
theorem State.packedResult_spec (s : State) (f : Byte → Byte → Bool → Byte × Bool) (a b : Byte) (c : Bool) :
    Frame s (s.packedResult f a b c).2 [] [] ∧ (isPacked a = true → isPacked b = true → (s.packedResult f a b c).1 = f a b c) := by
  unfold State.packedResult
  split
  · exact ⟨Frame.refl s, fun _ _ => rfl⟩
  · next h =>
    refine ⟨Frame.refl s, fun ha hb => absurd ?_ h⟩
    rw [ha, hb]
    rfl

/-- A packed decimal byte instruction: the checks, the sign of the byte, the frame, and with decimal digits the result. -/
theorem State.packedByte_spec (s : State) (f : Byte → Byte → Bool → Byte × Bool) (j k : ByteAddr) (c : Bool) :
    (isPacked (s.byteOp j) = true → isPacked (s.byteOp k) = true →
      (s.packedByte f j k c).byteOp j = (f (s.byteOp j) (s.byteOp k) c).1 ∧
        (s.packedByte f j k c).indAt 4 = (f (s.byteOp j) (s.byteOp k) c).2) ∧
      ChecksBytes s (s.packedByte f j k c) [s.byteOp j, s.byteOp k] ∧
      SignOf (s.packedByte f j k c) ((s.packedByte f j k c).byteOp j).toInt ∧ KeepsOtherBytes s (s.packedByte f j k c) j ∧
      Frame s (s.packedByte f j k c) [byteReg j] [1, 2, 3, 4, 5, 6] := by
  obtain ⟨checks, fc⟩ := s.checkTwo_spec (s.byteOp j) (s.byteOp k)
  unfold State.packedByte
  dsimp only
  generalize (s.bcdCheck true (s.byteOp j)).bcdCheck true (s.byteOp k) = u at checks fc
  obtain ⟨fr, result⟩ := u.packedResult_spec f (s.byteOp j) (s.byteOp k) c
  generalize u.packedResult f (s.byteOp j) (s.byteOp k) c = r at fr result
  obtain ⟨⟨v, carry⟩, w⟩ := r
  obtain ⟨value, four, sign, others⟩ := w.putByteSum_spec j v carry
  have fp := w.frame_putByteSum j v carry
  have fw : Frame s w [] [5, 6] := fc.trans fr
  have kept : ∀ n, n = 5 ∨ n = 6 → (w.putByteSum j v carry).indAt n = u.indAt n := by
    rintro n (rfl | rfl)
    · rw [fp.2.1 5 (by decide) (by decide) (by decide), fr.2.1 5 (by decide) (by decide) (by decide)]
    · rw [fp.2.1 6 (by decide) (by decide) (by decide), fr.2.1 6 (by decide) (by decide) (by decide)]
  refine ⟨fun ha hb => ?_, checks.of_kept (kept 5 (.inl rfl)) (kept 6 (.inr rfl)), ?_, fun b hb => ?_,
    (fw.trans fp).mono (by simp) (by simp)⟩
  · have e := result ha hb
    dsimp only at e ⊢
    rw [value, four, ← e]
    exact ⟨rfl, rfl⟩
  · dsimp only
    rw [value]
    exact sign
  · exact (others b hb).trans (fw.byteOp b)

/-- APDB and APDBC (R550, R552). -/
theorem State.packsByte_padd (s : State) (j k : ByteAddr) (c : Bool) : PacksByte s (s.packedByte padd j k c) j k
    ((bcdValue (s.byteOp j) + bcdValue (s.byteOp k) + c.toNat : Nat) : Int)
    (100 ≤ bcdValue (s.byteOp j) + bcdValue (s.byteOp k) + c.toNat) := by
  obtain ⟨result, rest⟩ := s.packedByte_spec padd j k c
  refine ⟨fun ha hb => ?_, rest⟩
  obtain ⟨value, carry⟩ := result ha hb
  obtain ⟨packed, sum⟩ := padd_spec c ha hb
  have lt := bcdValue_lt packed
  rw [value, carry]
  refine ⟨packed, by omega, ?_⟩
  cases hc : (padd (s.byteOp j) (s.byteOp k) c).2 <;> rw [hc] at sum <;> simp at sum ⊢ <;> omega

/-- SPDB and SPDBC (R551, R553). -/
theorem State.packsByte_psub (s : State) (j k : ByteAddr) (c : Bool) : PacksByte s (s.packedByte psub j k c) j k
    ((bcdValue (s.byteOp j) : Int) - bcdValue (s.byteOp k) - (1 - c.toNat : Nat))
    (bcdValue (s.byteOp k) + (1 - c.toNat) ≤ bcdValue (s.byteOp j)) := by
  obtain ⟨result, rest⟩ := s.packedByte_spec psub j k c
  refine ⟨fun ha hb => ?_, rest⟩
  obtain ⟨value, carry⟩ := result ha hb
  obtain ⟨packed, sum⟩ := psub_spec c ha hb
  have lt := bcdValue_lt packed
  rw [value, carry]
  refine ⟨packed, by omega, ?_⟩
  cases hc : (psub (s.byteOp j) (s.byteOp k) c).2 <;> rw [hc] at sum <;> simp at sum ⊢ <;> omega

/-- Settles O5: the four instructions differ in the digit operation and the carry in. -/
theorem packedByteSumsAndDifferences : Obligations.PackedByteSumsAndDifferences := by
  constructor
  · intro j k s
    exact ⟨⟨_, rfl, s.packsByte_padd j k false⟩, ⟨_, rfl, s.packsByte_padd j k (s.indAt 4)⟩⟩
  · intro j k s
    refine ⟨⟨_, rfl, ?_⟩, ⟨_, rfl, s.packsByte_psub j k (s.indAt 4)⟩⟩
    have h := s.packsByte_psub j k true
    rwa [Bool.toNat_true, Nat.sub_self, Nat.add_zero, Nat.cast_zero, Int.sub_zero] at h

end Sys2Proof.Machine
end

section
/-! Transfers, literal loads, shifts and moves (41), unpacking and links (44; 47), setup transfers (46). -/

namespace Sys2Proof.Machine

/-! ### Single bits as numbers -/

/-- One bit as a number. -/
theorem toNat_bit1 (b : Bool) : (bit1 b).toNat = b.toNat := by cases b <;> rfl

/-- A bit as a number. -/
theorem toNat_bitAt {w : Nat} (x : BitVec w) (n : Nat) : (bitAt x n).toNat = x.toNat / 2 ^ (n - 1) % 2 := by
  unfold bitAt BitVec.getLsbD
  exact Nat.toNat_testBit _ _

/-- A bit that is 1. -/
theorem bitAt_iff {w : Nat} (x : BitVec w) (n : Nat) : bitAt x n = true ↔ x.toNat / 2 ^ (n - 1) % 2 = 1 := by
  rw [← toNat_bitAt]
  cases bitAt x n <;> simp

/-! ### Shifts -/

/-- A shift: the register, I4, nothing else. -/
theorem State.shiftInto_spec (s : State) (k : RsuNum) (v : Word) (b : Bool) :
    ((s.setRsu k v).setIndAt 4 b).rsu k = v ∧ ((s.setRsu k v).setIndAt 4 b).indAt 4 = b ∧
      Frame s ((s.setRsu k v).setIndAt 4 b) [k] [4] :=
  ⟨s.rsu_setRsu_same k v, (State.indAt_setIndAt _ 4 4 b (by decide) (by decide) (by decide)).trans (if_pos rfl),
    (s.frame_setRsu k v).trans (State.frame_setIndAt _ 4 b (by decide) (by decide))⟩

/-- A word shifted right by one, `b` entering at the top. -/
theorem toNat_shiftRight (b : Bool) (v : Word) : (bit1 b ++ v.extractLsb' 1 31 : Word).toNat = v.toNat / 2 + 2 ^ 31 * b.toNat := by
  have := v.isLt
  rw [toNat_join, toNat_part, toNat_bit1]
  omega

/-- A word shifted left by one, `b` entering at the bottom. -/
theorem toNat_shiftLeft (b : Bool) (v : Word) : (v.extractLsb' 0 31 ++ bit1 b : Word).toNat = 2 * v.toNat % 2 ^ 32 + b.toNat := by
  have := b.toNat_le
  rw [toNat_join, toNat_part, toNat_bit1]
  omega

/-- The arithmetic shift halves a signed word, towards minus infinity. -/
theorem toInt_shiftRight (v : Word) : (bit1 (bitAt v 32) ++ v.extractLsb' 1 31 : Word).toInt = v.toInt / 2 := by
  have := v.isLt
  rw [BitVec.toInt_eq_toNat_cond, BitVec.toInt_eq_toNat_cond, toNat_shiftRight, toNat_bitAt]
  split <;> split <;> omega

/-- The bit that a left shift puts out. -/
theorem bitAt_top (v : Word) : bitAt v 32 = true ↔ 2 ^ 31 ≤ v.toNat := by
  have := v.isLt
  rw [bitAt_iff]
  omega

/-- The bit that a right shift puts out. -/
theorem bitAt_bottom (v : Word) : bitAt v 1 = true ↔ v.toNat % 2 = 1 := by
  rw [bitAt_iff]
  omega

/-- A shift to the right. -/
theorem State.shiftsRight (s : State) (k : RsuNum) (v : Word) (b : Bool) :
    let t := (s.setRsu k (bit1 b ++ v.extractLsb' 1 31)).setIndAt 4 (bitAt v 1)
    (t.rsu k).toNat = v.toNat / 2 + 2 ^ 31 * b.toNat ∧ (t.indAt 4 = true ↔ v.toNat % 2 = 1) ∧ Frame s t [k] [4] := by
  obtain ⟨value, four, frame⟩ := s.shiftInto_spec k (bit1 b ++ v.extractLsb' 1 31) (bitAt v 1)
  intro t
  rw [value, four, toNat_shiftRight, bitAt_bottom]
  exact ⟨rfl, Iff.rfl, frame⟩

/-- A shift to the left. -/
theorem State.shiftsLeft (s : State) (k : RsuNum) (v : Word) (b : Bool) :
    let t := (s.setRsu k (v.extractLsb' 0 31 ++ bit1 b)).setIndAt 4 (bitAt v 32)
    (t.rsu k).toNat = (2 * v.toNat + b.toNat) % 2 ^ 32 ∧ (t.indAt 4 = true ↔ 2 ^ 31 ≤ v.toNat) ∧ Frame s t [k] [4] := by
  obtain ⟨value, four, frame⟩ := s.shiftInto_spec k (v.extractLsb' 0 31 ++ bit1 b) (bitAt v 32)
  have := b.toNat_le
  intro t
  rw [value, four, toNat_shiftLeft, bitAt_top]
  exact ⟨by omega, Iff.rfl, frame⟩

/-- Settles O9: five shifts put a word and the bit shifted out, SWCL a word alone. -/
theorem wordShifts : Obligations.WordShifts := by
  intro j k s v c
  refine ⟨⟨_, rfl, ?_⟩, ⟨_, rfl, s.shiftsLeft k v false⟩, ⟨_, rfl, s.shiftsLeft k v (s.indAt 4)⟩,
    ⟨_, rfl, s.shiftsRight k v false⟩, ⟨_, rfl, s.shiftsRight k v (s.indAt 4)⟩, ⟨_, rfl, ?_, s.frame_setRsu k _⟩⟩
  · obtain ⟨value, four, frame⟩ := s.shiftInto_spec k (bit1 (bitAt v 32) ++ v.extractLsb' 1 31) (bitAt v 1)
    exact ⟨by rw [value, toInt_shiftRight], by rw [four, bitAt_bottom], frame⟩
  · rw [State.rsu_setRsu_same, toNat_shiftLeft, toNat_bitAt]
    show 2 * v.toNat % 2 ^ 32 + v.toNat / 2 ^ 31 % 2 = _
    have hv := v.isLt
    omega

/-! ### Literal loads -/

/-- A byte put in its place: the byte, the other bytes, the frame. -/
theorem State.setByteOp_spec (s : State) (a : ByteAddr) (v : Byte) :
    (s.setByteOp a v).byteOp a = v ∧ KeepsOtherBytes s (s.setByteOp a v) a ∧ Frame s (s.setByteOp a v) [byteReg a] [] :=
  ⟨(s.byteOp_setByteOp a a v).trans (if_pos rfl), s.keeps_setByteOp a v, s.frame_setByteOp a v⟩

/-- Byte 0 of a word replaced. -/
theorem toNat_putByte_zero (w : Word) (v : Byte) : (putByte w 0 v).toNat = v.toNat * 2 ^ 24 + w.toNat % 2 ^ 24 := by
  show (v ++ w.extractLsb' 0 24 : Word).toNat = _
  rw [toNat_join, toNat_part]
  omega

/-- Two digits put together, as a number. -/
theorem toNat_digits (l r : Digit) : (l ++ r : Byte).toNat = 16 * l.toNat + r.toNat := by
  rw [toNat_join]
  omega

/-- Settles O8: each load writes one register or one byte; LRH and LRHC also void a word. -/
theorem literalLoadsOfRegisters : Obligations.LiteralLoadsOfRegisters := by
  constructor
  · intro lit s
    refine ⟨_, rfl, ?_, s.frame_setRsu 0 _⟩
    rw [State.rsu_setRsu_same, toNat_putByte_zero]
  · intro j k l h lit s
    refine ⟨⟨_, rfl, ?_⟩, ⟨_, rfl, ?_⟩, ⟨_, rfl, ?_, rfl, s.frame_setRsu k _⟩, ⟨_, rfl, ?_, rfl, s.frame_setRsu k _⟩, ⟨_, rfl, ?_, rfl⟩⟩
    · obtain ⟨value, rest⟩ := s.setByteOp_spec j (l ++ rightDigit (s.byteOp j))
      exact ⟨by rw [value, toNat_digits, toNat_rightDigit], rest⟩
    · obtain ⟨value, rest⟩ := s.setByteOp_spec j (leftDigit (s.byteOp j) ++ l)
      refine ⟨?_, rest⟩
      rw [value, toNat_digits, toNat_leftDigit]
      omega
    · rw [State.rsu_void, State.rsu_setRsu_same, toNat_withRight]
    · rw [State.rsu_void, State.rsu_setRsu_same, toNat_join]
      simp
    · rw [State.setTally_cpc, toNat_join]
      simp

/-! ### Moves -/

/-- TW: the register, the write tags, nothing else. -/
theorem State.transferWord_spec (s : State) (j k : RsuNum) :
    let u := s.setRsu k (s.rsu j)
    let t := if s.twClears j k then u.setM6wt 0#4 else u
    t.rsu k = s.rsu j ∧ t.cpc.m6wt = (if s.twClears j k then 0#4 else s.cpc.m6wt) ∧
      Frame s { t with cpc := { t.cpc with m6wt := s.cpc.m6wt } } [k] [] := by
  intro u t
  have value := s.rsu_setRsu_same k (s.rsu j)
  have frame := s.frame_setRsu k (s.rsu j)
  simp only [t]
  split
  · exact ⟨value, rfl, frame⟩
  · exact ⟨value, rfl, frame⟩

/-- A register moved to itself is no change. -/
theorem State.setRsu_self (s : State) (k : RsuNum) : s.setRsu k (s.rsu k) = s := by
  unfold State.setRsu State.rsu
  rw [Vector.set_getElem_self]

/-- TW and the halfword moves: the first half of the statement on moves. -/
theorem wordAndHalfwordMoves (j k : RsuNum) (s : State) :
    let a := (s.rsu j).toNat
    let b := (s.rsu k).toNat
    let clears := (k = 12 ∨ k = 13) ∧ (s.plat.twTags = .always ∨ s.plat.twTags = .moved ∧ j ≠ k)
    (∃ t, exec (.tw j k) s = .next t ∧ t.rsu k = s.rsu j ∧ (clears → t.cpc.m6wt = 0#4) ∧
      (¬clears → t.cpc.m6wt = s.cpc.m6wt) ∧ Frame s { t with cpc := { t.cpc with m6wt := s.cpc.m6wt } } [k] []) ∧
    (s.plat.twTags ≠ .always → exec (.tw j j) s = .next s) ∧
    (∃ t, exec (.tlhlh j k) s = .next t ∧ (t.rsu k).toNat = a / 2 ^ 16 * 2 ^ 16 + b % 2 ^ 16 ∧ Frame s t [k] []) ∧
    (∃ t, exec (.tlhrh j k) s = .next t ∧ (t.rsu k).toNat = b / 2 ^ 16 * 2 ^ 16 + a / 2 ^ 16 ∧ Frame s t [k] []) ∧
    (∃ t, exec (.trhlh j k) s = .next t ∧ (t.rsu k).toNat = a % 2 ^ 16 * 2 ^ 16 + b % 2 ^ 16 ∧ Frame s t [k] []) ∧
    (∃ t, exec (.trhrh j k) s = .next t ∧ (t.rsu k).toNat = b / 2 ^ 16 * 2 ^ 16 + a % 2 ^ 16 ∧ Frame s t [k] []) := by
  intro a b clears
  obtain ⟨value, tags, frame⟩ := s.transferWord_spec j k
  have hc := s.twClears_iff j k
  refine ⟨⟨_, rfl, value, fun h => ?_, fun h => ?_, frame⟩, fun h => ?_, ⟨_, rfl, ?_, s.frame_setRsu k _⟩,
    ⟨_, rfl, ?_, s.frame_setRsu k _⟩, ⟨_, rfl, ?_, s.frame_setRsu k _⟩, ⟨_, rfl, ?_, s.frame_setRsu k _⟩⟩
  · exact tags.trans (if_pos (hc.mpr h))
  · exact tags.trans (if_neg fun q => h (hc.mp q))
  · have hn : ¬s.twClears j j = true := by
      rw [State.twClears_iff]
      simp [h]
    show Host.Outcome.next (if s.twClears j j then _ else _) = _
    rw [if_neg hn, State.setRsu_self]
  · rw [State.rsu_setRsu_same, toNat_withLeft, toNat_leftHalf]
  · rw [State.rsu_setRsu_same, toNat_withRight, toNat_leftHalf]
  · rw [State.rsu_setRsu_same, toNat_withLeft, toNat_rightHalf]
  · rw [State.rsu_setRsu_same, toNat_withRight, toNat_rightHalf]

/-- A digit move: the checks of the source byte, the byte, the other bytes. -/
theorem State.moveDigit_spec (s : State) (j k : ByteAddr) (f : Byte → Byte → Byte) :
    (s.moveDigit j k f).byteOp k = f (s.byteOp j) (s.byteOp k) ∧ ChecksBytes s (s.moveDigit j k f) [s.byteOp j] ∧
      KeepsOtherBytes s (s.moveDigit j k f) k ∧ Frame s (s.moveDigit j k f) [byteReg k] [5, 6] := by
  have frame := s.frame_bcdCheck true (s.byteOp j)
  obtain ⟨value, others, frame'⟩ := (s.bcdCheck true (s.byteOp j)).setByteOp_spec k (f (s.byteOp j) (s.byteOp k))
  exact ⟨value, (s.checksBytes_one _).of_kept rfl rfl, fun b hb => (others b hb).trans (frame.byteOp b), frame.trans frame'⟩

/-- A digit as an ASCII byte (47 R683). -/
theorem toNat_unpackDigit (d : Digit) : (unpackDigit d).toNat = 16 * (if d.toNat ≤ 9 then 3 else 2) + d.toNat := by
  unfold unpackDigit
  rw [toNat_digits]
  split <;> rfl

/-- Settles O10: each move writes one register, one byte or one half; TW also the write tags, the digit moves also the checks. -/
theorem wordHalfwordByteAndDigitMoves : Obligations.WordHalfwordByteAndDigitMoves := by
  refine ⟨wordAndHalfwordMoves, ?_⟩
  intro j k s a b zone moves sets
  have moved : ∀ (i : Instr) (f : Byte → Byte → Byte) (v : Nat), exec i s = .next (s.moveDigit j k f) →
      (f (s.byteOp j) (s.byteOp k)).toNat = v → moves i v := by
    intro i f v hi hv
    obtain ⟨value, rest⟩ := s.moveDigit_spec j k f
    exact ⟨_, hi, by rw [value, hv], rest⟩
  have set : ∀ (i : Instr) (x : Byte) (v : Nat), exec i s = .next (s.setByteOp k x) → x.toNat = v → sets i v := by
    intro i x v hi hv
    obtain ⟨value, rest⟩ := s.setByteOp_spec k x
    exact ⟨_, hi, by rw [value, hv], rest⟩
  refine ⟨set _ _ _ rfl rfl, moved _ _ _ rfl ?_, moved _ _ _ rfl ?_, moved _ _ _ rfl ?_, moved _ _ _ rfl ?_, set _ _ _ rfl ?_,
    set _ _ _ rfl ?_⟩
  · rw [toNat_digits, toNat_leftDigit, toNat_rightDigit, Nat.mul_comm]
  · rw [toNat_digits, toNat_leftDigit, toNat_leftDigit, Nat.mul_comm]
  · rw [toNat_digits, toNat_rightDigit, toNat_rightDigit, Nat.mul_comm]
  · rw [toNat_digits, toNat_leftDigit, toNat_rightDigit, Nat.mul_comm]
  · rw [toNat_unpackDigit, toNat_leftDigit]
  · rw [toNat_unpackDigit, toNat_rightDigit]

/-! ### Setup transfers and links -/

/-- The bytes and digits of a halfword as numbers. -/
theorem toNat_lowByte (h : Half) : (lowByte h).toNat = h.toNat % 256 := by
  unfold lowByte
  rw [toNat_part]
  omega

/-- The low digit of a halfword. -/
theorem toNat_lowDigit (h : Half) : (lowDigit h).toNat = h.toNat % 256 % 16 := by
  unfold lowDigit
  rw [toNat_part]
  omega

/-- The second digit of a halfword. -/
theorem toNat_secondDigit (h : Half) : (secondDigit h).toNat = h.toNat % 256 / 16 := by
  unfold secondDigit
  rw [toNat_part]
  omega

/-- A narrow value in a word. -/
theorem toNat_widen {v w : Nat} (x : BitVec v) (h : v ≤ w) : (x.setWidth w).toNat = x.toNat := BitVec.toNat_setWidth_of_le h

/-- Settles O39: five transfers write one register, LTS the tally. -/
theorem setupTransfers : Obligations.SetupTransfers := by
  intro j s low
  refine ⟨⟨_, rfl, ?_, s.frame_setRsu j _⟩, ⟨_, rfl, ?_, s.frame_setRsu j _⟩, ⟨_, rfl, ?_, s.frame_setRsu j _⟩,
    ⟨_, rfl, ?_, s.frame_setRsu j _⟩, ⟨_, rfl, ?_, s.frame_setRsu j _⟩, ⟨_, rfl, ?_, rfl⟩⟩
  · rw [State.rsu_setRsu_same, toNat_withRight, toNat_join, toNat_lowByte]
    simp [low]
  · rw [State.rsu_setRsu_same, toNat_widen _ (by decide), toNat_lowByte]
  · rw [State.rsu_setRsu_same, toNat_widen _ (by decide), toNat_secondDigit]
  · rw [State.rsu_setRsu_same, toNat_widen _ (by decide), toNat_lowDigit]
  · rw [State.rsu_setRsu_same, BitVec.toInt_signExtend_of_le (by decide)]
  · rw [State.setTally_cpc, toNat_join]
    simp

/-- An address ahead of the instruction. -/
theorem addressAhead_eq (s : State) {w : Nat} (d : BitVec w) : s.csa + d.setWidth 16 = AddressAhead s d.toNat := by
  unfold AddressAhead State.csa
  apply BitVec.eq_of_toNat_eq
  rw [BitVec.toNat_add, BitVec.toNat_setWidth, BitVec.toNat_ofNat]
  omega

/-- An address behind the instruction. -/
theorem addressBehind_eq (s : State) {w : Nat} (d : BitVec w) (h : w ≤ 16) : s.csa - d.setWidth 16 = AddressBehind s d.toNat := by
  have hd : d.toNat < 2 ^ 16 := lt_of_lt_of_le d.isLt (Nat.pow_le_pow_right (by decide) h)
  unfold AddressBehind State.csa
  apply BitVec.eq_of_toNat_eq
  rw [BitVec.toNat_sub, BitVec.toNat_setWidth, BitVec.toNat_ofNat]
  omega

/-- Settles O46: each of the three writes one register with an address formed from that of the instruction. -/
theorem linkAddresses : Obligations.LinkAddresses := by
  intro r j k s links
  have link : ∀ (i : Instr) (a : Half), exec i s = .next (s.setJr r a) → links i a := by
    intro i a hi
    exact ⟨_, hi, (s.jr_setJr r r a).trans (if_pos rfl), fun q hq => (s.jr_setJr r q a).trans (if_neg fun h => hq h.symm), rfl⟩
  refine ⟨link _ _ ?_, link _ _ ?_, ⟨_, rfl, ?_, s.frame_setRsu j _⟩⟩
  · rw [← addressAhead_eq]
    rfl
  · rw [← addressBehind_eq s k (by decide)]
    rfl
  · rw [State.rsu_setRsu_same, toNat_withRight, BitVec.toNat_add, toNat_widen _ (by decide)]
    rfl

end Sys2Proof.Machine
end

section
/-! The jumps, returns and skips (45). -/

namespace Sys2Proof.Machine

/-! ### Conditions -/

/-- The two low bits of a selector as bits. -/
theorem sel_bits (sel : Sel) : (bitAt sel 1 = true ↔ sel.toNat % 4 % 2 = 1) ∧ (bitAt sel 2 = true ↔ 2 ≤ sel.toNat % 4) := by
  rw [bitAt_iff, bitAt_iff]
  omega

/-- A selected pair of bits says a value (R572). -/
theorem testPair_iff (b : Byte) (sel : Sel) (v : Bool) : testPair b sel v = true ↔ PairSays b sel v := by
  obtain ⟨right, left⟩ := sel_bits sel
  have hm : (sel.extractLsb' 0 2).toNat = sel.toNat % 4 := by rw [toNat_part]; omega
  have hp : (sel.extractLsb' 2 2).toNat = sel.toNat / 4 := by
    have := sel.isLt
    rw [toNat_part]
    omega
  unfold testPair PairSays
  dsimp only
  rw [hm, hp, right, left]
  have h4 : sel.toNat % 4 < 4 := Nat.mod_lt _ (by decide)
  generalize sel.toNat % 4 = m at h4
  interval_cases m <;> simp [or_comm, and_comm]

/-- No bit of one value is a bit of another. -/
theorem and_eq_zero_iff {w : Nat} (x y : BitVec w) :
    x &&& y = 0#w ↔ ∀ n, 1 ≤ n → n ≤ w → bitAt x n = true → bitAt y n = false := by
  constructor
  · intro h n _ _ hx
    have b := congrArg (fun z => bitAt z n) h
    rw [bitAt_and, hx, Bool.true_and] at b
    rw [b]
    simp [bitAt]
  · intro h
    refine BitVec.eq_of_getLsbD_eq fun i hi => ?_
    have b := h (i + 1) (by omega) (by omega)
    unfold bitAt at b
    rw [Nat.add_sub_cancel] at b
    rw [BitVec.getLsbD_and, BitVec.getLsbD_zero, Bool.and_eq_false_iff]
    cases hx : x.getLsbD i
    · exact .inl rfl
    · exact .inr (b hx)

/-- Every bit of one value is a bit of another. -/
theorem and_eq_left_iff {w : Nat} (x y : BitVec w) :
    x &&& y = x ↔ ∀ n, 1 ≤ n → n ≤ w → bitAt x n = true → bitAt y n = true := by
  constructor
  · intro h n _ _ hx
    have b := congrArg (fun z => bitAt z n) h
    rwa [bitAt_and, hx, Bool.true_and] at b
  · intro h
    refine BitVec.eq_of_getLsbD_eq fun i hi => ?_
    have b := h (i + 1) (by omega) (by omega)
    unfold bitAt at b
    rw [Nat.add_sub_cancel] at b
    rw [BitVec.getLsbD_and]
    cases hx : x.getLsbD i
    · rfl
    · rw [b hx, Bool.and_self]

/-- A part of a value is not zero: one of its bits is 1. -/
theorem part_ne_zero_iff {w : Nat} (x : BitVec w) (i m : Nat) :
    x.extractLsb' i m ≠ 0#m ↔ ∃ n, i + 1 ≤ n ∧ n ≤ i + m ∧ bitAt x n = true := by
  constructor
  · intro h
    by_contra hn
    refine h (BitVec.eq_of_getLsbD_eq fun k hk => ?_)
    rw [BitVec.getLsbD_extractLsb', BitVec.getLsbD_zero, decide_eq_true hk, Bool.true_and, Bool.eq_false_iff]
    intro hb
    refine hn ⟨i + k + 1, by omega, by omega, ?_⟩
    exact hb
  · rintro ⟨n, h1, h2, hb⟩ h
    have b := congrArg (fun z => bitAt z (n - i)) h
    have hk : n - i - 1 < m := by omega
    have he : i + (n - i - 1) = n - 1 := by omega
    simp [bitAt, hk, he] at b hb
    rw [b] at hb
    cases hb

/-! ### The shapes of a jump -/

section Shapes
variable {i : Instr} {s : State} {c : Bool} {P : Prop} {a : Half} {f : State → State}

/-- An immediate jump under a condition. -/
theorem jumpsNowIf_when (hi : exec i s = .next (s.when c f)) (hf : f s = s.jumpImmediate a) (hc : c = true ↔ P) :
    JumpsNowIf i s P a := by
  cases c with
  | true => exact ⟨_, hi.trans (congrArg _ hf), rfl, fun _ => ⟨rfl, rfl⟩, fun h => absurd (hc.mp rfl) h⟩
  | false => exact ⟨_, hi, rfl, fun h => absurd (hc.mpr h) (by decide), fun _ => rfl⟩

/-- A delayed jump under a condition. -/
theorem jumpsLaterIf_when (hi : exec i s = .next (s.when c f)) (hf : f s = s.jumpDelayed a) (hc : c = true ↔ P) :
    JumpsLaterIf i s P a := by
  cases c with
  | true => exact ⟨_, hi.trans (congrArg _ hf), rfl, fun _ => ⟨rfl, rfl⟩, fun h => absurd (hc.mp rfl) h⟩
  | false => exact ⟨_, hi, rfl, fun h => absurd (hc.mpr h) (by decide), fun _ => rfl⟩

/-- A skip under a condition. -/
theorem skipsIf_when (hi : exec i s = .next (s.when c fun s => s.void 1)) (hc : c = true ↔ P) : SkipsIf i s P := by
  cases c with
  | true => exact ⟨_, hi, rfl, rfl, fun _ => rfl, fun h => absurd (hc.mp rfl) h⟩
  | false => exact ⟨_, hi, rfl, rfl, fun h => absurd (hc.mpr h) (by decide), fun _ => rfl⟩

/-- A two-word jump. -/
theorem jumpsLongIf_jumpLong (hi : exec i s = .next (s.jumpLong c a)) (hc : c = true ↔ P) : JumpsLongIf i s P a := by
  cases c with
  | true => exact ⟨_, hi, rfl, fun _ => ⟨rfl, rfl⟩, fun h => absurd (hc.mp rfl) h⟩
  | false => exact ⟨_, hi, rfl, fun h => absurd (hc.mpr h) (by decide), fun _ => ⟨rfl, rfl⟩⟩

end Shapes

/-! ### Targets -/

/-- The right half of a register as its low sixteen bits. -/
theorem rightHalf_eq (w : Word) : rightHalf w = BitVec.ofNat 16 w.toNat :=
  BitVec.eq_of_toNat_eq (by rw [toNat_rightHalf, BitVec.toNat_ofNat])

/-- Where the jumps on a pair of indicators go (R328, R585; log 20). -/
theorem State.pairTarget_eq (s : State) (k : Lit4) : s.pairTarget k =
    if s.plat.pairJumpsByRsu = true then BitVec.ofNat 16 (s.rsu k).toNat else AddressAhead s k.toNat := by
  unfold State.pairTarget
  rw [rightHalf_eq]
  exact congrArg _ (addressAhead_eq s k)

/-! ### The unconditional jumps -/

/-- A presented breakpoint changes the breakpoint hardware alone. -/
theorem State.presentBkpt_spec (s : State) (a b : Bool) : { s.presentBkpt a b with bkpt := s.bkpt } = s ∧
    (s.plat.bkptHw = false ∨ b = false → s.presentBkpt a b = s) := by
  unfold State.presentBkpt
  split
  · next h =>
    refine ⟨rfl, fun q => absurd h ?_⟩
    rcases q with q | q <;> simp [q]
  · exact ⟨rfl, fun _ => rfl⟩

/-- The halfword on the bus: of the fetched word when it is there; else nothing but the counter of free values changes. -/
theorem State.busHalf_spec (s : State) : { s.busHalf.2 with fresh := s.fresh } = s ∧
    ∀ f n, s.cpc.fetch = some { data := some f, age := n } → s.now.dieLate = false →
      s.busHalf = (f.word.extractLsb' 0 16, s) := by
  unfold State.busHalf
  constructor
  · split <;> rfl
  · intro f n hf hd
    have h : s.wordOnBus = some f := by
      unfold State.wordOnBus
      rw [hf]
      simp [hd]
    rw [h]

/-- The complement of a halfword. -/
theorem toNat_complement (w : Word) : (~~~(w.extractLsb' 0 16)).toNat + w.toNat % 2 ^ 16 = 65535 := by
  rw [BitVec.toNat_not, toNat_part]
  omega

/-- Settles O34: each of the jumps presents its target, with two words voided or not. -/
theorem unconditionalJumps : Obligations.UnconditionalJumps := by
  constructor
  · intro j k d s a
    have ha : rightHalf (s.rsu k) = a := rightHalf_eq _
    obtain ⟨kept, same⟩ := s.presentBkpt_spec (bitAt j 2) (bitAt j 1)
    have ahead : s.ahead d = AddressAhead s d.toNat := addressAhead_eq s d
    have behind : s.behind d = AddressBehind s d.toNat := addressBehind_eq s d (by decide)
    have now : ∀ (i : Instr) (b : Half), exec i s = .next (s.jumpImmediate b) → JumpsNowIf i s True b := fun i b h =>
      jumpsNowIf_when (c := true) (f := fun s => s.jumpImmediate b) h rfl (by simp)
    have later : ∀ (i : Instr) (b : Half), exec i s = .next (s.jumpDelayed b) → JumpsLaterIf i s True b := fun i b h =>
      jumpsLaterIf_when (c := true) (f := fun s => s.jumpDelayed b) h rfl (by simp)
    refine ⟨⟨_, rfl, ⟨by rw [← ha]; rfl, rfl⟩, rfl⟩, ⟨_, rfl, ⟨by rw [← ha]; rfl, ?_⟩, ?_, fun h => ?_⟩,
      now _ _ (by rw [← ahead]; rfl), now _ _ (by rw [← behind]; rfl), later _ _ (by rw [← ahead]; rfl),
      later _ _ (by rw [← behind]; rfl)⟩
    · have e := congrArg (fun u : State => u.pipe.skip) kept
      exact e
    · have e := congrArg (fun u : State => { u with pipe := { u.pipe with crNext := s.pipe.crNext, skip := s.pipe.skip } }) kept
      exact e
    · show (s.presentBkpt (bitAt j 2) (bitAt j 1)).bkpt = s.bkpt
      rw [same h]
  · intro s
    obtain ⟨kept, word⟩ := s.busHalf_spec
    have flow := congrArg (fun u : State => { u with pipe := { u.pipe with crNext := s.pipe.crNext, skip := s.pipe.skip } }) kept
    refine ⟨⟨_, _, rfl, ⟨rfl, rfl⟩, flow⟩, ⟨_, _, rfl, ⟨rfl, ?_⟩, flow⟩, fun f n hf hd => ⟨_, toNat_complement f.word, ?_, ?_⟩⟩
    · have e := congrArg (fun u : State => u.pipe.skip) kept
      exact e
    · refine jumpsNowIf_when (c := true) (f := fun s => s.jumpImmediate _) ?_ rfl (by simp)
      show Host.Outcome.next (s.busHalf.2.jumpImmediate (~~~s.busHalf.1)) = _
      rw [word f n hf hd]
      rfl
    · refine jumpsLaterIf_when (c := true) (f := fun s => s.jumpDelayed _) ?_ rfl (by simp)
      show Host.Outcome.next (s.busHalf.2.jumpDelayed (~~~s.busHalf.1)) = _
      rw [word f n hf hd]
      rfl

/-! ### Jumps, returns and skips under a condition -/

/-- Settles O35: each instruction is a jump under the condition that a selected pair of indicators says. -/
theorem indicatorJumpsAndReturns : Obligations.IndicatorJumpsAndReturns := by
  constructor
  · intro sel k l s ones zeros there
    have one : onesIn s.indicators sel = true ↔ ones := testPair_iff _ _ _
    have zero : zerosIn s.indicators sel = true ↔ zeros := testPair_iff _ _ _
    have ht : s.pairTarget k = there := s.pairTarget_eq k
    have hb : s.behind k = AddressBehind s k.toNat := addressBehind_eq s k (by decide)
    exact ⟨jumpsNowIf_when rfl (congrArg _ ht) one, jumpsNowIf_when rfl (congrArg _ ht) zero,
      jumpsNowIf_when rfl (congrArg _ hb) one, jumpsNowIf_when rfl (congrArg _ hb) zero,
      jumpsLaterIf_when rfl (congrArg _ ht) one, jumpsLaterIf_when rfl (congrArg _ ht) zero,
      jumpsLaterIf_when rfl (congrArg _ hb) one, jumpsLaterIf_when rfl (congrArg _ hb) zero,
      jumpsLongIf_jumpLong rfl one, jumpsLongIf_jumpLong rfl zero⟩
  · intro r sel s
    exact ⟨jumpsNowIf_when rfl rfl (testPair_iff _ _ _), jumpsLaterIf_when rfl rfl (testPair_iff _ _ _),
      jumpsNowIf_when rfl rfl (testPair_iff _ _ _), jumpsLaterIf_when rfl rfl (testPair_iff _ _ _)⟩

/-- Settles O37: each skip voids one word under its condition. -/
theorem skips : Obligations.Skips := by
  intro sel r j k s
  have low : byteOf (s.rsu r) 3 = BitVec.ofNat 8 (s.rsu r).toNat := by
    apply BitVec.eq_of_toNat_eq
    show ((s.rsu r).extractLsb' 0 8).toNat = _
    rw [toNat_part, BitVec.toNat_ofNat]
    omega
  refine ⟨skipsIf_when rfl (testPair_iff _ _ _), skipsIf_when rfl (testPair_iff _ _ _), skipsIf_when rfl (testPair_iff _ _ _),
    skipsIf_when rfl (testPair_iff _ _ _), ?_, skipsIf_when rfl bne_iff_ne, skipsIf_when rfl beq_iff_eq⟩
  rw [← low]
  exact skipsIf_when rfl (testPair_iff _ _ _)

/-- A two-word jump that links: with the condition it jumps and links, without it the literal is voided. -/
theorem State.linkLong_spec (s : State) (c : Bool) (r : JrNum) (l : Half) :
    let t := (s.jumpLong c l).when c fun t => t.setJr r s.pipe.cr
    (c = true → JumpsNow t l ∧ t.jr r = s.pipe.cr ∧ (∀ q, q ≠ r → t.jr q = s.jr q) ∧
      KeepsButFlow s { t with cpc := { t.cpc with jr := s.cpc.jr } }) ∧
    (c = false → t.pipe.crNext = s.pipe.crNext ∧ t.pipe.skip = 1#2 ∧ KeepsButFlow s t) := by
  cases c with
  | true =>
    refine ⟨fun _ => ⟨⟨rfl, rfl⟩, ?_, fun q hq => ?_, rfl⟩, nofun⟩
    · exact (State.jr_setJr (s := s.jumpImmediate l) r r s.pipe.cr).trans (if_pos rfl)
    · exact (State.jr_setJr (s := s.jumpImmediate l) r q s.pipe.cr).trans (if_neg fun h => hq h.symm)
  | false => exact ⟨nofun, fun _ => ⟨rfl, rfl, rfl⟩⟩

/-- A mask meets a byte in no bit. -/
theorem mask_eq_zero_iff (mask b : Byte) :
    (mask &&& b == 0#8) = true ↔ ∀ n, 1 ≤ n → n ≤ 8 → bitAt mask n = true → bitAt b n = false := by
  rw [beq_iff_eq, and_eq_zero_iff]

/-- Settles O36: JIOL and JIZL jump long and link under a mask of the indicators, JRO and JRZ jump long under a mask of a byte. -/
theorem maskedLongJumps : Obligations.MaskedLongJumps := by
  intro hi m r b l s mask links
  have link : ∀ (i : Instr) (v : Bool) (x : Byte), (∀ n, 1 ≤ n → n ≤ 8 → (bitAt x n = true ↔ s.indAt n = v)) →
      exec i s = .next ((s.jumpLong ((mask &&& x) != 0#8) l).when ((mask &&& x) != 0#8) fun t => t.setJr r s.pipe.cr) →
      links i v := by
    intro i v x hx he
    obtain ⟨yes, no⟩ := s.linkLong_spec ((mask &&& x) != 0#8) r l
    have none := mask_eq_zero_iff mask x
    constructor
    · rintro ⟨n, h1, h8, hm, hv⟩
      refine ⟨_, he, yes ?_⟩
      rw [bne, Bool.not_eq_true', Bool.eq_false_iff]
      intro h
      have := none.mp h n h1 h8 hm
      rw [(hx n h1 h8).mpr hv] at this
      cases this
    · intro h
      refine ⟨_, he, no ?_⟩
      rw [bne, Bool.not_eq_false']
      refine none.mpr fun n h1 h8 hm => ?_
      rw [Bool.eq_false_iff]
      exact fun q => h n h1 h8 hm ((hx n h1 h8).mp q)
  refine ⟨link _ true s.indicators (fun _ _ _ => Iff.rfl) rfl, link _ false (~~~s.indicators) (fun n h1 h8 => ?_) rfl,
    jumpsLongIf_jumpLong rfl ?_, jumpsLongIf_jumpLong rfl (mask_eq_zero_iff _ _)⟩
  · rw [bitAt_not _ _ h1 h8, Bool.not_eq_true']
    rfl
  · exact beq_iff_eq.trans (and_eq_left_iff _ _)

/-! ### The tally, the fields and VPBSY -/

/-- An overflow flag is set and the tally is not used up (R591). -/
theorem State.fieldOverflow_iff (s : State) :
    s.fieldOverflow = true ↔ (∃ n, 2 ≤ n ∧ n ≤ 5 ∧ bitAt s.cpc.sr n = true) ∧ s.cpc.tally ≠ 0#16 := by
  unfold State.fieldOverflow
  rw [Bool.and_eq_true, bne_iff_ne, bne_iff_ne, part_ne_zero_iff]

/-- The vector of the Field Array as a number (R591). -/
theorem State.fieldVector_eq (s : State) : s.fieldVector =
    BitVec.ofNat 16 ((s.jr 7).toNat / 256 * 256 + (bitAt s.cpc.sr 1).toNat * 128 + s.cpc.sr.toNat / 2 % 16 * 8) := by
  have := (s.jr 7).isLt
  apply BitVec.eq_of_toNat_eq
  unfold State.fieldVector
  rw [toNat_join, toNat_join, toNat_join, toNat_part, toNat_part, toNat_part, BitVec.toNat_ofNat, toNat_bitAt]
  simp
  omega

/-- The tally counted down. -/
theorem toNat_tally_pred {x : Half} (h : x ≠ 0#16) : (x - 1).toNat + 1 = x.toNat := by
  have hx : x.toNat ≠ 0 := fun q => h (BitVec.eq_of_toNat_eq q)
  have := x.isLt
  rw [BitVec.toNat_sub]
  simp
  omega

/-- Settles O38: the jumps under a tally count it down, those on a field take its vector, those on VPBSY are relative. -/
theorem tallyFieldAndExternalJumps : Obligations.TallyFieldAndExternalJumps := by
  constructor
  · intro d s
    have behind : s.behind d = AddressBehind s d.toNat := addressBehind_eq s d (by decide)
    constructor
    · intro h
      have hb : (s.cpc.tally != 0#16) = false := by rw [h]; rfl
      exact ⟨congrArg (fun c => Host.Outcome.next (s.when c _)) hb, congrArg (fun c => Host.Outcome.next (s.when c _)) hb⟩
    · intro h
      have hb : (s.cpc.tally != 0#16) = true := bne_iff_ne.mpr h
      rw [← behind]
      exact ⟨⟨_, congrArg (fun c => Host.Outcome.next (s.when c _)) hb, toNat_tally_pred h, ⟨rfl, rfl⟩, rfl⟩,
        ⟨_, congrArg (fun c => Host.Outcome.next (s.when c _)) hb, toNat_tally_pred h, ⟨rfl, rfl⟩, rfl⟩⟩
  · intro d s c a
    have hc : s.fieldOverflow = true ↔ c := s.fieldOverflow_iff
    have ha : s.fieldVector = a := s.fieldVector_eq
    have ahead : s.ahead d = AddressAhead s d.toNat := addressAhead_eq s d
    have behind : s.behind d = AddressBehind s d.toNat := addressBehind_eq s d (by decide)
    refine ⟨jumpsNowIf_when rfl (congrArg _ ha) hc, fun h => ⟨_, congrArg (fun c => Host.Outcome.next (s.when c _)) (hc.mpr h),
      ⟨congrArg some ha, rfl⟩, ?_, fun q hq => ?_, rfl⟩, fun h => ?_, jumpsNowIf_when rfl (congrArg _ ahead) Iff.rfl,
      jumpsNowIf_when rfl (congrArg _ behind) Iff.rfl⟩
    · exact (State.jr_setJr (s := s.jumpImmediate s.fieldVector) 6 6 s.pipe.iar).trans (if_pos rfl)
    · exact (State.jr_setJr (s := s.jumpImmediate s.fieldVector) 6 q s.pipe.iar).trans (if_neg fun h => hq h.symm)
    · exact congrArg (fun c => Host.Outcome.next (s.when c _)) (Bool.eq_false_iff.mpr fun q => h (hc.mp q))

end Sys2Proof.Machine
end

section
/-! The setup and emulation instructions (46): the pointers and addresses they form as numbers, the maps, the jumps and the assists. -/

namespace Sys2Proof.Machine

/-! ### Parts of a halfword as numbers -/

/-- A halfword from its number. -/
theorem half_eq {x : Half} {n : Nat} (h : x.toNat = n) : x = BitVec.ofNat 16 n := by
  rw [← h]
  exact (BitVec.ofNat_toNat 16 x).symm

/-- The high byte of a halfword. -/
theorem toNat_highByte (h : Half) : (highByte h).toNat = h.toNat / 256 := by
  have := h.isLt
  unfold highByte
  rw [toNat_part]
  omega

/-- The top digit of a halfword. -/
theorem toNat_topDigit (h : Half) : (topDigit h).toNat = h.toNat / 4096 := by
  have := h.isLt
  unfold topDigit
  rw [toNat_part]
  omega

/-- A digit compared with a numeral. -/
theorem digit_beq (d : Digit) (c : Digit) : (d == c) = decide (d.toNat = c.toNat) := by
  rw [Bool.eq_iff_iff, beq_iff_eq, decide_eq_true_iff, BitVec.toNat_inj]

/-- A bit as a summand. -/
theorem toNat_decide (p : Prop) [Decidable p] : (decide p).toNat = if p then 1 else 0 := by
  by_cases h : p <;> simp [h]

/-! ### Pointers (R634, R635) -/

/-- A pointer to a virtual register. -/
theorem toNat_registerPointer (b : Bool) (r : Digit) : (registerPointer b r).toNat = 128 * b.toNat + 96 + r.toNat := by
  unfold registerPointer
  rw [toNat_join, toNat_join, toNat_bit1]
  simp
  omega

/-- A pointer to a base register. -/
theorem toNat_basePointer (b : Digit) : (basePointer b).toNat = 96 + b.toNat + if b.toNat = 0 then 16 else 0 := by
  unfold basePointer
  rw [toNat_join, toNat_join, toNat_bit1, digit_beq, toNat_decide]
  simp
  split <;> omega

/-- The first IBM pointer. -/
theorem toNat_optr1Ibm (h : Half) : (optr1Ibm h).toNat = 96 + h.toNat / 16 % 16 := by
  unfold optr1Ibm
  rw [toNat_registerPointer, toNat_secondDigit, Bool.toNat_false]
  omega

/-- The first native pointer. -/
theorem toNat_optr1Nvm (h : Half) :
    (optr1Nvm h).toNat = (if h.toNat / 16 % 16 = 15 then 128 else 0) + 96 + h.toNat / 16 % 16 := by
  have e : h.toNat % 256 / 16 = h.toNat / 16 % 16 := by omega
  unfold optr1Nvm
  rw [toNat_registerPointer, digit_beq, toNat_decide, toNat_secondDigit, e]
  show 128 * (if _ = 15 then 1 else 0) + 96 + _ = _
  split <;> rfl

/-- The second IBM pointer. -/
theorem State.toNat_optr2Ibm (s : State) (h : Half) : (s.optr2Ibm h).toNat =
    if Config.ibmFormat h = .rx then
      let b := if s.plat.rxOptr2FromSur1 = true then h.toNat % 16 else s.cpc.sur2.toNat / 4096
      96 + b + if b = 0 then 16 else 0
    else 96 + h.toNat % 16 := by
  have e : h.toNat % 256 % 16 = h.toNat % 16 := by omega
  have b : (if s.plat.rxOptr2FromSur1 then lowDigit h else topDigit s.cpc.sur2).toNat =
      if s.plat.rxOptr2FromSur1 = true then h.toNat % 16 else s.cpc.sur2.toNat / 4096 := by
    split
    · rw [toNat_lowDigit, e]
    · rw [toNat_topDigit]
  unfold State.optr2Ibm
  split
  · rw [toNat_basePointer, b]
  · rw [toNat_registerPointer, toNat_lowDigit, e, Bool.toNat_false]

/-- The second native pointer. -/
theorem toNat_optr2Nvm (h : Half) : (optr2Nvm h).toNat =
    if Config.nvmFormat h = .rm then 96 + if h.toNat % 8 = 0 then 16 else h.toNat % 8
    else 96 + h.toNat % 16 + if h.toNat % 16 = 15 then 128 else 0 := by
  have e : h.toNat % 256 % 16 = h.toNat % 16 := by omega
  have x : (h.extractLsb' 0 3).toNat = h.toNat % 8 := by
    rw [toNat_part]
    omega
  unfold optr2Nvm
  dsimp only
  split
  · rw [toNat_join]
    by_cases hx : h.extractLsb' 0 3 = 0#3
    · have z : h.toNat % 8 = 0 := by rw [← x, hx]; rfl
      rw [if_pos hx, if_pos z]
      rfl
    · have z : h.toNat % 8 ≠ 0 := fun q => hx (BitVec.eq_of_toNat_eq (by rw [x, q]; rfl))
      rw [if_neg hx, if_neg z, toNat_join, x]
      show 3 * 2 ^ 5 + (0 * 2 ^ 3 + _) = _
      omega
  · rw [toNat_registerPointer, digit_beq, toNat_decide, toNat_lowDigit, e]
    show 128 * (if _ = 15 then 1 else 0) + 96 + _ = _
    split <;> omega

/-- The second pointer of a SETNA. -/
theorem toNat_optr2Setna (h : Half) :
    (optr2Setna h).toNat = 96 + h.toNat / 4096 + if h.toNat / 4096 = 15 then 128 else 0 := by
  unfold optr2Setna
  rw [toNat_registerPointer, digit_beq, toNat_decide, toNat_topDigit]
  show 128 * (if _ = 15 then 1 else 0) + 96 + _ = _
  split <;> omega

/-! ### Addresses (R636) -/

/-- The native setup routine. -/
theorem State.nvmSetupAddr_eq (s : State) (b : Bool) : s.nvmSetupAddr b =
    BitVec.ofNat 16 (s.cpc.sur3.toNat / 256 * 256 + b.toNat * 128 + (Config.nvmF s.cpc.sur1).toNat * 16) := by
  apply half_eq
  unfold State.nvmSetupAddr State.baseA
  rw [toNat_join, toNat_join, toNat_join, toNat_highByte, toNat_bit1]
  simp
  omega

/-- The native execution routine. -/
theorem State.nvmExecAddr_eq (s : State) :
    s.nvmExecAddr = BitVec.ofNat 16 (s.cpc.sur3.toNat % 16 * 4096 + s.cpc.sur1.toNat / 256 * 16) := by
  apply half_eq
  unfold State.nvmExecAddr State.baseC State.virtualOpcode
  rw [toNat_join, toNat_join, toNat_highByte, toNat_lowDigit]
  simp
  omega

/-- The native indirect routine. -/
theorem State.nvmIndirAddr_eq (s : State) :
    s.nvmIndirAddr = BitVec.ofNat 16 (s.cpc.sur3.toNat / 16 % 16 * 4096 + s.cpc.sur1.toNat / 256 * 16) := by
  apply half_eq
  unfold State.nvmIndirAddr State.baseB State.virtualOpcode
  rw [toNat_join, toNat_join, toNat_highByte, toNat_secondDigit]
  simp
  omega

/-- The class of the index field as a number. -/
theorem State.toNat_vrxClass (s : State) : s.vrxClass.toNat =
    if Config.vrxIR (lowByte s.cpc.sur1) = 0#6 then 1 else if Config.vrxIR (lowByte s.cpc.sur1) = 63#6 then 2 else 0 := by
  unfold State.vrxClass
  split
  · rfl
  · split <;> rfl

/-- The VRX setup routine of an A jump. -/
theorem State.vrxSetupAAddr_eq (s : State) : s.vrxSetupAAddr = BitVec.ofNat 16 (s.cpc.sur3.toNat / 16 % 16 * 4096 +
    s.cpc.sur1.toNat / 2 ^ 15 * 256 + s.vrxClass.toNat * 64 + (Config.vrxM (lowByte s.cpc.sur1)).toNat * 16) := by
  have := s.cpc.sur1.isLt
  apply half_eq
  unfold State.vrxSetupAAddr State.baseB State.virtualOpcode
  rw [toNat_join, toNat_join, toNat_join, toNat_join, toNat_join, toNat_secondDigit, toNat_bit1, toNat_bitAt, toNat_highByte]
  simp
  omega

/-- The VRX setup routine of a B jump. -/
theorem State.vrxSetupBAddr_eq (s : State) : s.vrxSetupBAddr = BitVec.ofNat 16 (s.cpc.sur3.toNat / 256 * 256 +
    s.vrxClass.toNat * 64 + (Config.vrxM (lowByte s.cpc.sur1)).toNat * 16) := by
  apply half_eq
  unfold State.vrxSetupBAddr State.baseA
  rw [toNat_join, toNat_join, toNat_join, toNat_highByte]
  simp
  omega

/-- The VRX execution routine. -/
theorem State.vrxExecAddr_eq (s : State) :
    s.vrxExecAddr = BitVec.ofNat 16 (s.cpc.sur3.toNat % 16 * 4096 + s.cpc.sur1.toNat / 256 % 128 * 16) := by
  apply half_eq
  unfold State.vrxExecAddr State.baseC State.virtualOpcode
  rw [toNat_join, toNat_join, toNat_join, toNat_part, toNat_highByte, toNat_lowDigit]
  simp
  omega

/-! ### The IBM condition code -/

/-- The match of an IBM condition (R637; log 18). -/
theorem State.ibmMatch_iff (s : State) : s.ibmMatch = true ↔ bitAt s.cpc.sur1 (8 - s.cpc.via.toNat % 4) = true ∧
    ¬(Config.ibmFormat s.cpc.sur1 = .rr ∧ s.cpc.sur1.toNat % 16 = 0) := by
  have v : (s.cpc.via.extractLsb' 0 2).toNat = s.cpc.via.toNat % 4 := by
    rw [toNat_part]
    omega
  have e : s.cpc.sur1.toNat % 256 % 16 = s.cpc.sur1.toNat % 16 := by omega
  unfold State.ibmMatch
  dsimp only
  rw [v, digit_beq, toNat_lowDigit, e, Bool.and_eq_true, Bool.not_eq_true', Bool.and_eq_false_iff]
  simp only [beq_eq_false_iff_ne, decide_eq_false_iff_not, not_and_or]
  rfl

/-! ### Maps -/

/-- A bit of a virtual indicator array after one enable. -/
theorem bitAt_mapBit (on : Bool) (n : Nat) (v : Bool) (a : Half) (m : Nat) (hn : 1 ≤ n) (h16 : n ≤ 16) (hm : 1 ≤ m) :
    bitAt (mapBit on n v a) m = if on = true ∧ n = m then v else bitAt a m := by
  unfold mapBit
  cases on with
  | true =>
    rw [if_pos rfl, bitAt_putBit _ _ _ _ hn h16 hm]
    simp
  | false => simp

/-- L, E and G under their enables, the other bits as before. -/
theorem State.bitAt_mapOrder (s : State) (en : Byte) (m : Nat) (hm : 1 ≤ m) : bitAt (s.mapOrder en) m =
    if m ≤ 3 ∧ bitAt en m = true then s.indAt m else bitAt s.cpc.via m := by
  unfold State.mapOrder
  rw [bitAt_mapBit _ _ _ _ _ (by decide) (by decide) hm, bitAt_mapBit _ _ _ _ _ (by decide) (by decide) hm,
    bitAt_mapBit _ _ _ _ _ (by decide) (by decide) hm]
  obtain rfl | rfl | rfl | h : m = 1 ∨ m = 2 ∨ m = 3 ∨ 4 ≤ m := by omega
  · simp
  · simp
  · simp
  · rw [if_neg (by omega), if_neg (by omega), if_neg (by omega), if_neg (by omega)]

end Sys2Proof.Machine
end

section
/-! The setup and emulation instructions (46): the maps, the setup and execution jumps. -/

namespace Sys2Proof.Machine

/-! ### Maps -/

/-- The virtual indicators after MII: CC0 and CC1 under the enables its page allows, the others as before (R652). -/
theorem exec_mii_bits (en : Byte) (s : State) (h : mapEnablesIbm en = true) : ∃ v, exec (.mii en) s = .next (s.setVia v) ∧
    ∀ n, 1 ≤ n → bitAt v n =
      if n = 1 then if bitAt en 1 = true then s.indAt 1 else if bitAt en 3 = true then !s.indAt 2
        else if bitAt en 5 = true then s.indAt 4 else if bitAt en 6 = true then s.indAt 5 else bitAt s.cpc.via 1
      else if n = 2 then if bitAt en 2 = true then s.indAt 3 else if bitAt en 4 = true then s.indAt 4
        else if bitAt en 5 = true then s.indAt 4 else if bitAt en 6 = true then s.indAt 5 else bitAt s.cpc.via 2
      else bitAt s.cpc.via n := by
  refine ⟨_, rfl, fun n hn => ?_⟩
  simp only [mapEnablesIbm, Bool.and_eq_true, Bool.not_eq_true', Bool.and_eq_false_iff, Bool.or_eq_false_iff] at h
  simp (disch := omega) only [bitAt_mapBit]
  grind

/-- The virtual indicators after MIN: L, E and G and the overflow under the enables its page allows (R653). -/
theorem exec_min_bits (en : Byte) (s : State) (h : mapEnablesNvm en = true) : ∃ v, exec (.min en) s = .next (s.setVia v) ∧
    ∀ n, 1 ≤ n → bitAt v n =
      if n ≤ 3 then if bitAt en n = true then s.indAt n else bitAt s.cpc.via n
      else if n = 7 then if bitAt en 4 = true then s.indAt 4 else if bitAt en 5 = true then !s.indAt 4 else bitAt s.cpc.via 7
      else bitAt s.cpc.via n := by
  refine ⟨_, rfl, fun n hn => ?_⟩
  simp only [mapEnablesNvm, Bool.and_eq_true, Bool.not_eq_true', Bool.and_eq_false_iff] at h
  simp (disch := omega) only [bitAt_mapBit, State.bitAt_mapOrder]
  grind

/-- The virtual indicators after MIV: L, E and G, the overflow and R under the enables its page allows (R654). -/
theorem exec_miv_bits (en : Byte) (s : State) (h : mapEnablesVrx en = true) : ∃ v, exec (.miv en) s = .next (s.setVia v) ∧
    ∀ n, 1 ≤ n → bitAt v n =
      if n ≤ 3 then if bitAt en n = true then s.indAt n else bitAt s.cpc.via n
      else if n = 7 then if bitAt en 4 = true then s.indAt 4 else if bitAt en 5 = true then s.indAt 5 else bitAt s.cpc.via 7
      else if n = 6 then if bitAt en 6 = true then false else if bitAt en 7 = true then true else bitAt s.cpc.via 6
      else bitAt s.cpc.via n := by
  refine ⟨_, rfl, fun n hn => ?_⟩
  simp only [mapEnablesVrx, Bool.and_eq_true, Bool.not_eq_true', Bool.and_eq_false_iff] at h
  simp (disch := omega) only [bitAt_mapBit, State.bitAt_mapOrder]
  grind

/-- Settles O40: each map is one write of the virtual indicators, given bit by bit. -/
theorem indicatorMaps : Obligations.IndicatorMaps := by
  intro en s on via keeps
  refine ⟨fun h => ?_, fun h => ?_, fun h => ?_⟩
  · obtain ⟨v, hv, bits⟩ := exec_mii_bits en s h
    refine ⟨_, hv, ⟨fun n h1 h16 hn => ?_, rfl⟩, bits 1 (by decide), bits 2 (by decide)⟩
    rw [List.mem_pair, not_or] at hn
    exact (bits n h1).trans (by rw [if_neg hn.1, if_neg hn.2])
  · obtain ⟨v, hv, bits⟩ := exec_min_bits en s h
    refine ⟨_, hv, ⟨fun n h1 h16 hn => ?_, rfl⟩, fun n h1 h3 => (bits n h1).trans (if_pos h3), bits 7 (by decide)⟩
    simp only [List.mem_cons, List.not_mem_nil, or_false, not_or] at hn
    exact (bits n h1).trans (by rw [if_neg (by omega), if_neg (by omega)])
  · obtain ⟨v, hv, bits⟩ := exec_miv_bits en s h
    refine ⟨_, hv, ⟨fun n h1 h16 hn => ?_, rfl⟩, fun n h1 h3 => (bits n h1).trans (if_pos h3), bits 7 (by decide), bits 6 (by decide)⟩
    simp only [List.mem_cons, List.not_mem_nil, or_false, not_or] at hn
    exact (bits n h1).trans (by rw [if_neg (by omega), if_neg (by omega), if_neg (by omega)])

/-! ### Setup jumps -/

/-- The step by two of the MARS7 pointer from the right half: its overflow flag is set (R640). -/
theorem State.stepSetup_eq (s t : State) (ht : t.cpc.rsu = s.cpc.rsu) (hp : s.pointer 14 = 2#2) :
    t.stepTwo s 15 false = (t.setSr (t.cpc.sr ||| 0b10000#16)).setRsu 14 (movedBy (s.rsu 14) 2#2) := by
  have crosses : s.crossesTwo 15 false = true := by
    show (s.pointer 14 == 2#2) = true
    rw [hp]
    rfl
  have flag : t.overflow 15 true = t.setSr (t.cpc.sr ||| 0b10000#16) := rfl
  unfold State.stepTwo
  rw [crosses, flag]
  show State.setRsu _ 14 _ = _
  unfold movedBy pointedAt
  congr 1
  rw [State.rsu_setSr, State.rsu_of_cpc ht]
  rfl

/-- The pointer of MARS7 is odd. -/
theorem State.pointer_cases {p : BitVec 2} (h : p.toNat % 2 = 1) : p ≠ 2#2 ∧ p ≠ 0#2 := by
  constructor
  · rintro rfl
    exact absurd h (by decide)
  · rintro rfl
    exact absurd h (by decide)

/-- An A jump: to the BCT flow, to the overflow routine, refused, or on (R640, R643). -/
theorem State.setupJumpA_spec (s : State) (r : JrNum) (f : State → State) :
    (s.ca1At 9 = true → s.setupJumpA r f = .next (s.jumpDelayed (s.jr r))) ∧
    (s.ca1At 9 = false → s.pointer 14 = 0#2 → s.setupJumpA r f = .next (s.jumpDelayed s.cpc.sur4)) ∧
    (s.ca1At 9 = false → (s.pointer 14).toNat % 2 = 1 → s.setupJumpA r f = .refused .oddSetupPointer) ∧
    (s.ca1At 9 = false → s.pointer 14 = 2#2 → s.setupJumpA r f = .next ((f s).stepTwo s 15 false)) := by
  unfold State.setupJumpA
  refine ⟨fun h => if_pos h, fun h hp => ?_, fun h hp => ?_, fun h hp => ?_⟩
  · rw [if_neg (by rw [h]; decide), if_neg (by rw [hp]; decide), if_pos hp]
  · obtain ⟨h2, h0⟩ := State.pointer_cases hp
    rw [if_neg (by rw [h]; decide), if_neg h2, if_neg h0]
  · rw [if_neg (by rw [h]; decide), if_pos hp]

/-- The setup registers and the operand pointers that a setup jump loads (R631, R634, R635). -/
def State.setUp (s : State) (h : Half) (p1 p2 : Byte) : State :=
  { s with cpc := { s.cpc with sur1 := h, sur5 := lowByte h, optr1 := p1, optr2 := p2 } }

/-- The loads of JMPIA and JMPIB. -/
theorem State.loadIbm_eq (s : State) (h : Half) : s.loadIbm h = s.setUp h (optr1Ibm h) (s.optr2Ibm h) := by
  obtain ⟨c, _, _, _, _, _, _, _, _⟩ := s
  cases c
  rfl

/-- The loads of JMPNA and JMPNB. -/
theorem State.loadNvm_eq (s : State) (h : Half) : s.loadNvm h = s.setUp h (optr1Nvm h) (optr2Nvm h) := by
  obtain ⟨c, _, _, _, _, _, _, _, _⟩ := s
  cases c
  rfl

/-- A jump to `a` with the setup registers loaded, from the right half: the pointer of MARS7 moves by two and M7OF is set. -/
def State.setUpRight (s : State) (h : Half) (p1 p2 : Byte) (a : Half) : State :=
  (((s.setUp h p1 p2).jumpDelayed a).setSr (s.cpc.sr ||| 0b10000#16)).setRsu 14 (movedBy (s.rsu 14) 2#2)

/-- What such a jump leaves. -/
theorem State.setUpRight_spec (s : State) (h : Half) (p1 p2 : Byte) (a : Half) :
    let t := s.setUpRight h p1 p2 a
    (t.cpc.sur1 = h ∧ t.cpc.sur5.toNat = h.toNat % 256 ∧ t.rsu 14 = movedBy (s.rsu 14) 2#2 ∧
      KeepsRsu s t [14] ∧ t.cpc.sr = s.cpc.sr ||| 0b10000#16 ∧ t.cpc.sptr = s.cpc.sptr ∧ t.cpc.tally = s.cpc.tally ∧
      t.cpc.ind = s.cpc.ind ∧ t.mem = s.mem ∧ t.atc = s.atc) ∧ JumpsLater s t a ∧ t.cpc.optr1 = p1 ∧ t.cpc.optr2 = p2 := by
  refine ⟨⟨rfl, toNat_lowByte h, State.rsu_setRsu_same _ _, fun k hk => ?_, rfl, rfl, rfl, rfl, rfl, rfl⟩, ⟨rfl, rfl⟩, rfl, rfl⟩
  unfold State.setUpRight
  rw [State.rsu_setRsu, if_neg fun q => hk (by simp [q])]
  rfl

/-- An A jump from the right half. -/
theorem State.setupJumpA_right (s : State) (r : JrNum) {f : State → State} {h a : Half} {p1 p2 : Byte}
    (hf : f s = (s.setUp h p1 p2).jumpDelayed a) (hb : s.ca1At 9 = false) (hp : s.pointer 14 = 2#2) :
    s.setupJumpA r f = .next (s.setUpRight h p1 p2 a) := by
  obtain ⟨-, -, -, on⟩ := s.setupJumpA_spec r f
  rw [on hb hp, hf, s.stepSetup_eq ((s.setUp h p1 p2).jumpDelayed a) rfl hp]
  rfl

/-- The state after the loads of a native jump. -/
def State.nativeLoads (s : State) (h : Half) : State := s.setUp h (optr1Nvm h) (optr2Nvm h)

/-- Where a native A jump goes on to (R643). -/
theorem State.nvmTargetA_eq (s : State) :
    (if Config.nvmFormat s.cpc.sur1 = .rr2 then s.nvmExecAddr else s.nvmSetupAddr false) =
      if Config.nvmFormat s.cpc.sur1 = .rr2 then BitVec.ofNat 16 (s.cpc.sur3.toNat % 16 * 4096 + s.cpc.sur1.toNat / 256 * 16)
      else BitVec.ofNat 16 (s.cpc.sur3.toNat / 256 * 256 + (Config.nvmF s.cpc.sur1).toNat * 16) := by
  rw [State.nvmExecAddr_eq, State.nvmSetupAddr_eq, Bool.toNat_false, Nat.zero_mul, Nat.add_zero]

/-- JMPIA is an A jump with the IBM loads (R640). -/
theorem exec_jmpia_eq (r : JrNum) (s : State) : exec (.jmpia r 15) s = s.setupJumpA r fun s =>
    (s.setUp (rightHalf (s.rsu 15)) (optr1Ibm (rightHalf (s.rsu 15))) (s.optr2Ibm (rightHalf (s.rsu 15)))).jumpDelayed
      (Config.ibmSetupAddr (rightHalf (s.rsu 15)) s.cpc.sur3) := by
  show execJmpia r 15 s = _
  unfold execJmpia
  simp only [State.loadIbm_eq]
  rfl

/-- JMPNA is an A jump with the native loads (R643). -/
theorem exec_jmpna_eq (r : JrNum) (s : State) : exec (.jmpna r 15) s = s.setupJumpA r fun s =>
    (s.nativeLoads (rightHalf (s.rsu 15))).jumpDelayed (if Config.nvmFormat (rightHalf (s.rsu 15)) = .rr2
      then (s.nativeLoads (rightHalf (s.rsu 15))).nvmExecAddr else (s.nativeLoads (rightHalf (s.rsu 15))).nvmSetupAddr false) := by
  show execJmpna r 15 s = _
  unfold execJmpna
  simp only [State.loadNvm_eq]
  rfl

/-- The three ways of an A jump that load nothing. -/
theorem State.setupJumpA_flows (s : State) (r : JrNum) {i : Instr} {f : State → State} (hi : exec i s = s.setupJumpA r f) :
    (s.ca1At 9 = true → ∃ t, exec i s = .next t ∧ JumpsLater s t (s.jr r) ∧ KeepsButFlow s t) ∧
    (s.ca1At 9 = false → s.pointer 14 = 0#2 → ∃ t, exec i s = .next t ∧ JumpsLater s t s.cpc.sur4 ∧ KeepsButFlow s t) ∧
    (s.ca1At 9 = false → (s.pointer 14).toNat % 2 = 1 → exec i s = .refused .oddSetupPointer) := by
  obtain ⟨bct, left, odd, -⟩ := s.setupJumpA_spec r f
  exact ⟨fun q => ⟨_, hi.trans (bct q), ⟨rfl, rfl⟩, rfl⟩, fun q p => ⟨_, hi.trans (left q p), ⟨rfl, rfl⟩, rfl⟩,
    fun q p => hi.trans (odd q p)⟩

/-! ### B jumps -/

/-- What a B jump leaves, whatever its target (R641, R644). -/
theorem State.setUp_spec (s : State) (h : Half) (p1 p2 : Byte) :
    let t := s.setUp h p1 p2
    t.cpc.sur1 = h ∧ t.cpc.sur5.toNat = h.toNat % 256 ∧ (∀ r, t.rsu r = s.rsu r) ∧
      t.cpc.sr = s.cpc.sr ∧ t.cpc.sptr = s.cpc.sptr ∧ t.cpc.tally = s.cpc.tally ∧ t.mem = s.mem ∧ t.atc = s.atc :=
  ⟨rfl, toNat_lowByte h, fun _ => rfl, rfl, rfl, rfl, rfl, rfl⟩

/-- The state that JMPIB jumps from: the loads made, the match left for the cycle following (R641). -/
def State.ibmB (s : State) (h : Half) : State := 
  (s.setUp h (optr1Ibm h) (s.optr2Ibm h)).matchLater (s.setUp h (optr1Ibm h) (s.optr2Ibm h)).ibmMatch

/-- JMPIB by the format (R641). -/
theorem exec_jmpib_eq (s : State) : exec (.jmpib 15) s = .next (match Config.ibmFormat (leftHalf (s.rsu 15)) with
    | .rr => (s.ibmB (leftHalf (s.rsu 15))).jumpDelayed (Config.ibmExecAddr (leftHalf (s.rsu 15)) s.cpc.sur3)
    | .rx => (s.ibmB (leftHalf (s.rsu 15))).jumpDelayed (Config.ibmSetupAddr (leftHalf (s.rsu 15)) s.cpc.sur3)
    | .other => (s.ibmB (leftHalf (s.rsu 15))).jumpImmediate (Config.ibmSetupAddr (leftHalf (s.rsu 15)) s.cpc.sur3)) := by
  show execJmpib 15 s = _
  unfold execJmpib
  simp only [State.loadIbm_eq]
  rfl

/-- JMPNB by the format (R644). -/
theorem exec_jmpnb_eq (s : State) : exec (.jmpnb 15) s = .next (match Config.nvmFormat (leftHalf (s.rsu 15)) with
    | .mm => (s.nativeLoads (leftHalf (s.rsu 15))).jumpImmediate ((s.nativeLoads (leftHalf (s.rsu 15))).nvmSetupAddr true)
    | .rm => (s.nativeLoads (leftHalf (s.rsu 15))).jumpDelayed ((s.nativeLoads (leftHalf (s.rsu 15))).nvmSetupAddr true)
    | .rr1 => (s.nativeLoads (leftHalf (s.rsu 15))).jumpDelayed (s.nativeLoads (leftHalf (s.rsu 15))).nvmExecAddr
    | .rr2 => (s.nativeLoads (leftHalf (s.rsu 15))).jumpImmediate (s.nativeLoads (leftHalf (s.rsu 15))).nvmExecAddr
    | .ri => (s.nativeLoads (leftHalf (s.rsu 15))).jumpImmediate (s.nativeLoads (leftHalf (s.rsu 15))).nvmExecAddr) := by
  show execJmpnb 15 s = _
  unfold execJmpnb
  simp only [State.loadNvm_eq]
  rfl

/-- Settles O41: an A jump goes on with the loads and the pointer step; a B jump loads and jumps as the format says. -/
theorem setupJumps : Obligations.SetupJumps := by
  refine ⟨fun r s => ?_, fun s => ?_⟩
  · intro h common setup
    refine ⟨s.setupJumpA_flows r (exec_jmpia_eq r s), s.setupJumpA_flows r (exec_jmpna_eq r s), fun hb hp => ⟨?_, ?_⟩⟩
    · obtain ⟨leaves, jumps, p1, p2⟩ := s.setUpRight_spec h (optr1Ibm h) (s.optr2Ibm h) (Config.ibmSetupAddr h s.cpc.sur3)
      exact ⟨_, (exec_jmpia_eq r s).trans (s.setupJumpA_right (h := h) (a := Config.ibmSetupAddr h s.cpc.sur3)
        (p1 := optr1Ibm h) (p2 := s.optr2Ibm h) r rfl hb hp), leaves, jumps, by rw [p1, toNat_optr1Ibm],
        by rw [p2, State.toNat_optr2Ibm]⟩
    · obtain ⟨leaves, jumps, p1, p2⟩ := s.setUpRight_spec h (optr1Nvm h) (optr2Nvm h)
        (if Config.nvmFormat h = .rr2 then (s.nativeLoads h).nvmExecAddr else (s.nativeLoads h).nvmSetupAddr false)
      refine ⟨_, (exec_jmpna_eq r s).trans (s.setupJumpA_right (h := h) (p1 := optr1Nvm h) (p2 := optr2Nvm h)
        (a := if Config.nvmFormat h = .rr2 then (s.nativeLoads h).nvmExecAddr else (s.nativeLoads h).nvmSetupAddr false)
        r rfl hb hp), leaves, by rw [p1, toNat_optr1Nvm], by rw [p2, toNat_optr2Nvm], ?_⟩
      have target := (s.nativeLoads h).nvmTargetA_eq
      exact target ▸ jumps
  · intro h setup
    constructor
    · have cond := (s.setUp h (optr1Ibm h) (s.optr2Ibm h)).ibmMatch_iff
      have leaves := s.setUp_spec h (optr1Ibm h) (s.optr2Ibm h)
      refine ⟨_, exec_jmpib_eq s, ?_, ?_, ?_, ?_, ?_, ?_⟩
      · split <;> exact leaves
      · split <;> rfl
      · split <;> exact toNat_optr1Ibm h
      · split <;> exact s.toNat_optr2Ibm h
      · split <;> exact ⟨_, rfl, cond⟩
      · show match Config.ibmFormat (leftHalf (s.rsu 15)) with | .rr => _ | .rx => _ | .other => _
        cases Config.ibmFormat (leftHalf (s.rsu 15)) with
        | rr => exact ⟨rfl, rfl⟩
        | rx => exact ⟨rfl, rfl⟩
        | other => exact ⟨rfl, rfl⟩
    · have setupAt := (s.nativeLoads h).nvmSetupAddr_eq true
      have execAt := (s.nativeLoads h).nvmExecAddr_eq
      have leaves := s.setUp_spec h (optr1Nvm h) (optr2Nvm h)
      refine ⟨_, exec_jmpnb_eq s, ?_, ?_, ?_, ?_, ?_⟩
      · split <;> exact leaves
      · split <;> rfl
      · split <;> exact toNat_optr1Nvm h
      · split <;> exact toNat_optr2Nvm h
      · show match Config.nvmFormat (leftHalf (s.rsu 15)) with | .mm => _ | .rm => _ | .rr1 => _ | .rr2 => _ | .ri => _
        cases Config.nvmFormat (leftHalf (s.rsu 15)) with
        | mm => exact ⟨congrArg some setupAt, rfl⟩
        | rm => exact ⟨congrArg some setupAt, rfl⟩
        | rr1 => exact ⟨congrArg some execAt, rfl⟩
        | rr2 => exact ⟨congrArg some execAt, rfl⟩
        | ri => exact ⟨congrArg some execAt, rfl⟩

end Sys2Proof.Machine
end

section
/-! The execution and VRX jumps and the setup assists (46), the commands of the bus (47). -/

namespace Sys2Proof.Machine

/-! ### Execution jumps -/

/-- The low byte of a halfword from its number. -/
theorem lowByte_eq (h : Half) : lowByte h = BitVec.ofNat 8 h.toNat := by
  apply BitVec.eq_of_toNat_eq
  rw [toNat_lowByte, BitVec.toNat_ofNat]

/-- The bytes of a halfword put together from two. -/
theorem bytes_append (l r : Byte) : highByte (l ++ r) = l ∧ lowByte (l ++ r) = r := by
  have hr := r.isLt
  have hl := l.isLt
  constructor
  · exact BitVec.eq_of_toNat_eq (by rw [toNat_highByte, toNat_join]; omega)
  · exact BitVec.eq_of_toNat_eq (by rw [toNat_lowByte, toNat_join]; omega)

/-- Two bytes put together, as a number. -/
theorem toNat_bytes (l r : Byte) : (l ++ r : Half).toNat = l.toNat * 256 + r.toNat := toNat_join l r

/-- Byte 0 of a word. -/
theorem toNat_byteOf_zero (w : Word) : (byteOf w 0).toNat = w.toNat / 2 ^ 24 := by
  have := w.isLt
  show (w.extractLsb' 24 8).toNat = _
  rw [toNat_part]
  omega

/-- The class of the index field of `x` (46 R636). -/
theorem State.vrxClass_eq (s : State) {x : Byte} (h : lowByte s.cpc.sur1 = x) : s.vrxClass.toNat =
    if Config.vrxIR x = 0#6 then 1 else if Config.vrxIR x = 63#6 then 2 else 0 := by
  rw [State.toNat_vrxClass, h]

/-- JMPNC: to the indirect routine, the bit cleared, or to the execution routine (R645). -/
theorem State.jumpNc_spec (s : State) :
    let t := if Config.nvmFormat s.cpc.sur1 = .rm ∧ bitAt s.cpc.sur1 4 = true then
      (s.jumpDelayed s.nvmIndirAddr).setSur1 (putBit s.cpc.sur1 4 false) else s.jumpDelayed s.nvmExecAddr
    KeepsButFlow s { t with cpc := { t.cpc with sur1 := s.cpc.sur1 } } ∧
      if Config.nvmFormat s.cpc.sur1 = .rm ∧ bitAt s.cpc.sur1 4 = true then
        JumpsLater s t (BitVec.ofNat 16 (s.cpc.sur3.toNat / 16 % 16 * 4096 + s.cpc.sur1.toNat / 256 * 16)) ∧
          t.cpc.sur1 = s.cpc.sur1 &&& 0xFFF7#16
      else JumpsLater s t (BitVec.ofNat 16 (s.cpc.sur3.toNat % 16 * 4096 + s.cpc.sur1.toNat / 256 * 16)) ∧
        t.cpc.sur1 = s.cpc.sur1 := by
  rw [← State.nvmIndirAddr_eq, ← State.nvmExecAddr_eq]
  dsimp only
  split
  · exact ⟨rfl, ⟨rfl, rfl⟩, rfl⟩
  · exact ⟨rfl, ⟨rfl, rfl⟩, rfl⟩

/-- JMPVC: a tally of 0 becomes 256 (R648; log 57). -/
theorem State.jumpVc_spec (s : State) (a : Half) :
    let t := (if s.cpc.tally = 0#16 then s.setTally 0x100 else s).jumpDelayed a
    JumpsLater s t a ∧ t.cpc.tally.toNat = (if s.cpc.tally.toNat = 0 then 256 else s.cpc.tally.toNat) ∧
      KeepsButFlow s { t with cpc := { t.cpc with tally := s.cpc.tally } } := by
  have zero : s.cpc.tally = 0#16 ↔ s.cpc.tally.toNat = 0 := ⟨fun h => by rw [h]; rfl, fun h => BitVec.eq_of_toNat_eq h⟩
  dsimp only
  split
  · next h => exact ⟨⟨rfl, rfl⟩, by rw [if_pos (zero.mp h)]; rfl, rfl⟩
  · next h => exact ⟨⟨rfl, rfl⟩, by rw [if_neg (fun q => h (zero.mpr q))]; rfl, rfl⟩

/-- JMPD: the byte of the register becomes the opcode; a right digit of 0 voids two words (R649). -/
theorem exec_jmpd_eq (k : RsuNum) (s : State) :
    let v := byteOf (s.rsu k) 0
    let t := s.setSur1 (v ++ lowByte s.cpc.sur1)
    let a := highByte s.cpc.sur4 ++ Config.descVector v
    exec (.jmpd k) s = .next (if rightDigit v = 0#4 then t.jumpImmediate a else t.jumpDelayed a) := by
  intro v t a
  have opcode : t.virtualOpcode = v := (bytes_append v (lowByte s.cpc.sur1)).1
  show execJmpd k s = _
  unfold execJmpd
  change Host.Outcome.next (if rightDigit t.virtualOpcode = 0#4 then
      t.jumpImmediate (highByte s.cpc.sur4 ++ Config.descVector t.virtualOpcode)
    else t.jumpDelayed (highByte s.cpc.sur4 ++ Config.descVector t.virtualOpcode)) = _
  rw [opcode]

/-- Settles O42: each jump loads its registers and goes to the address formed from them. -/
theorem executionAndVrxJumps : Obligations.ExecutionAndVrxJumps := by
  constructor
  · intro k s q
    have exec16 := s.vrxExecAddr_eq
    refine ⟨⟨_, rfl, ⟨rfl, rfl⟩, ⟨_, rfl, s.ibmMatch_iff⟩, rfl⟩, ⟨_, rfl, s.jumpNc_spec⟩, ⟨_, rfl, ?_⟩, ⟨_, exec_jmpd_eq k s, ?_⟩⟩
    · rw [← exec16]
      exact s.jumpVc_spec s.vrxExecAddr
    · have value : byteOf (s.rsu k) 0 = BitVec.ofNat 8 ((s.rsu k).toNat / 2 ^ 24) :=
        BitVec.eq_of_toNat_eq (by rw [toNat_byteOf_zero, BitVec.toNat_ofNat]; have := (s.rsu k).isLt; omega)
      have low : rightDigit (byteOf (s.rsu k) 0) = 0#4 ↔ (s.rsu k).toNat / 2 ^ 24 % 16 = 0 := by
        rw [← BitVec.toNat_inj, toNat_rightDigit, toNat_byteOf_zero]
        rfl
      have sur1 : (byteOf (s.rsu k) 0 ++ lowByte s.cpc.sur1 : Half).toNat = (s.rsu k).toNat / 2 ^ 24 * 256 + s.cpc.sur1.toNat % 256 := by
        rw [toNat_bytes, toNat_byteOf_zero, toNat_lowByte]
      rw [← value]
      dsimp only
      split
      · next h => exact ⟨sur1, rfl, (if_pos (low.mp h)).symm, rfl⟩
      · next h => exact ⟨sur1, rfl, (if_neg fun p => h (low.mpr p)).symm, rfl⟩
  · intro s h low cls
    refine ⟨⟨_, rfl, rfl, ⟨?_, rfl⟩, rfl⟩, ⟨_, rfl, ?_, toNat_highByte h, ⟨?_, rfl⟩, rfl⟩⟩
    · have target := (s.setSur1 h).vrxSetupAAddr_eq
      rw [State.vrxClass_eq _ (lowByte_eq h)] at target
      refine (congrArg some target).trans ?_
      show some (BitVec.ofNat 16 (_ + _ + _ + (Config.vrxM (lowByte h)).toNat * 16)) = _
      rw [lowByte_eq h]
      rfl
    · show (highByte s.cpc.sur1 ++ lowByte h : Half).toNat = _
      rw [toNat_bytes, toNat_highByte, toNat_lowByte]
    · have target := ((s.setSur1 (highByte s.cpc.sur1 ++ lowByte h)).setSur5 (highByte h)).vrxSetupBAddr_eq
      rw [State.vrxClass_eq _ (lowByte_eq _)] at target
      refine (congrArg some target).trans ?_
      show some (BitVec.ofNat 16 (_ + _ + (Config.vrxM (lowByte (highByte s.cpc.sur1 ++ lowByte h))).toNat * 16)) = _
      rw [lowByte_eq]
      rfl

/-! ### Setup assists -/

/-- A step by two changes the address register and the overflow flag alone. -/
theorem State.stepTwo_frame (s old : State) (k : RsuNum) (dec : Bool) :
    { s.stepTwo old k dec with cpc := { (s.stepTwo old k dec).cpc with rsu := s.cpc.rsu, sr := s.cpc.sr } } = s := by
  unfold State.stepTwo State.overflow
  split <;> rfl

/-- The end of a setup assist that leaves `w` in `RSU[j]`, from a state `u` whose registers and `SR` are those of `s`: the registers,
M7OF, nothing else. -/
theorem State.assist_spec (s u : State) (j : RsuNum) (w : Word) (hr : u.cpc.rsu = s.cpc.rsu) (hs : u.cpc.sr = s.cpc.sr) :
    let t := (u.setRsu j w).stepTwo s 15 false
    (∀ r, t.rsu r = if r = 14#4 then pointedAt (if j = 14#4 then w else s.rsu 14) (s.pointer 14 + 2)
      else if r = j then w else s.rsu r) ∧
    (bitAt t.cpc.sr 5 = true ↔ bitAt s.cpc.sr 5 = true ∨ s.pointer 14 = 2#2) ∧
    (∀ n, 1 ≤ n → n ≤ 16 → n ≠ 5 → bitAt t.cpc.sr n = bitAt s.cpc.sr n) ∧
    { t with cpc := { t.cpc with rsu := u.cpc.rsu, sr := u.cpc.sr } } = u := by
  intro t
  have mars : IsMars 15 := .inr (.inr (.inr rfl))
  have flag : ∀ n, 1 ≤ n → bitAt t.cpc.sr n = (bitAt s.cpc.sr n || (s.crossesTwo 15 false && decide (n = 5))) := fun n h => by
    rw [← hs]
    exact State.sr_stepTwo (u.setRsu j w) s 15 false mars n h
  refine ⟨fun r => ?_, ?_, fun n h1 _ h5 => ?_, ?_⟩
  · rw [State.rsu_stepTwo, State.rsu_setRsu, State.rsu_setRsu, State.rsu_of_cpc hr, State.rsu_of_cpc hr]
    show (if r = 14#4 then pointedAt (if j = 14#4 then w else s.rsu 14) _ else if j = r then w else s.rsu r) = _
    simp only [eq_comm (a := j)]
    rfl
  · rw [flag 5 (by decide), decide_eq_true rfl, Bool.and_true, Bool.or_eq_true]
    exact or_congr_right beq_iff_eq
  · rw [flag n h1, decide_eq_false h5, Bool.and_false, Bool.or_false]
  · have e := congrArg (fun x : State => { x with cpc := { x.cpc with rsu := u.cpc.rsu } })
      (State.stepTwo_frame (u.setRsu j w) s 15 false)
    exact e

/-- The pointer of MARS7 is odd (93 U33). -/
theorem State.oddPointer_iff (s : State) : s.oddPointer 15 = true ↔ (s.pointer 14).toNat % 2 = 1 := by
  show bitAt (s.pointer 14) 1 = true ↔ _
  rw [bitAt_iff]
  omega

/-- The native condition match: some C bit and the virtual indicator that faces it are both 1 (R637). -/
theorem State.nvmMatch_iff (s : State) : s.nvmMatch = true ↔
    ∃ n : BitVec 2, s.cpc.sur1.getLsbD n.toNat = true ∧ s.cpc.via.getLsbD (Config.nvmCBit n).toNat = true := by
  unfold State.nvmMatch State.nvmMatchBit
  simp only [Bool.or_eq_true, Bool.and_eq_true]
  constructor
  · rintro (((h | h) | h) | h)
    · exact ⟨0, h⟩
    · exact ⟨1, h⟩
    · exact ⟨2, h⟩
    · exact ⟨3, h⟩
  · rintro ⟨n, h⟩
    have four : ∀ n : BitVec 2, n = 0 ∨ n = 1 ∨ n = 2 ∨ n = 3 := by decide
    rcases four n with rfl | rfl | rfl | rfl
    · exact .inl (.inl (.inl h))
    · exact .inl (.inl (.inr h))
    · exact .inl (.inr h)
    · exact .inr h

/-- SETIA at an even pointer (R650). -/
theorem exec_setia_even (j : RsuNum) (s : State) (h : s.oddPointer 15 = false) : exec (.setia j 15) s =
    .next ((((s.setSur2 (s.fhalf 15)).setOptr2 (basePointer (topDigit (s.fhalf 15)))).setRsu j
      (((s.fhalf 15).extractLsb' 0 12).setWidth 32)).stepTwo s 15 false) :=
  if_neg (by rw [h]; decide)

/-- SETNA at an even pointer with the halfword `half`, by the format (R651). -/
theorem exec_setna_even (j : RsuNum) {s u : State} {half : Half} (h : s.oddPointer 15 = false) (taken : s.fhalf 15 = half)
    (hu : (s.setSur2 half).enterSetna = u) : exec (.setna j) s = match Config.nvmFormat u.cpc.sur1 with
      | .ri => .next (((u.setIndAt 6 u.nvmMatch).setRsu j (half.signExtend 32)).stepTwo s 15 false)
      | .rm => .next (((u.setOptr2 (optr2Setna half)).setRsu j ((half.extractLsb' 0 12).setWidth 32)).stepTwo s 15 false)
      | .mm => .next (((u.setOptr2 (optr2Setna half)).setRsu j ((half.extractLsb' 0 12).setWidth 32)).stepTwo s 15 false)
      | .rr1 => .refused .setnaFormat
      | .rr2 => .refused .setnaFormat := by
  subst taken hu
  show execSetna j s = _
  unfold execSetna
  exact if_neg (by rw [h]; decide)

/-- The displacement of an assist as a number. -/
theorem toNat_displacement (h : Half) : ((h.extractLsb' 0 12).setWidth 32 : Word).toNat = h.toNat % 4096 := by
  rw [toNat_widen _ (by decide), toNat_part]
  omega

/-- `u` is `s` with `half` in `SUR2`, but for the indicators and the second operand pointer. -/
def TookHalf (s u : State) (half : Half) : Prop :=
  { u with cpc := { u.cpc with ind := s.cpc.ind, optr2 := s.cpc.optr2 } } = s.setSur2 half

/-- A setup assist leaves `w` in `RSU[j]` and steps the pointer by two from a state that took the halfword (R650, R651). -/
theorem State.assist_leaves {s u : State} {half : Half} (j : RsuNum) (w : Word) (hu : TookHalf s u half) :
    let t := (u.setRsu j w).stepTwo s 15 false
    (t.cpc.sur2 = half ∧
      (∀ r, t.rsu r = if r = 14#4 then pointedAt (if j = 14#4 then w else s.rsu 14) (s.pointer 14 + 2)
        else if r = j then w else s.rsu r) ∧
      t.cpc.sur1 = s.cpc.sur1 ∧ t.cpc.optr1 = s.cpc.optr1 ∧ t.cpc.tally = s.cpc.tally ∧ t.mem = s.mem ∧ t.atc = s.atc ∧
      t.pipe = s.pipe ∧ (bitAt t.cpc.sr 5 = true ↔ bitAt s.cpc.sr 5 = true ∨ s.pointer 14 = 2#2) ∧
      (∀ n, 1 ≤ n → n ≤ 16 → n ≠ 5 → bitAt t.cpc.sr n = bitAt s.cpc.sr n)) ∧
    t.cpc.ind = u.cpc.ind ∧ t.cpc.optr2 = u.cpc.optr2 ∧ t.cpc.ca1 = s.cpc.ca1 := by
  intro t
  have before : ∀ {α : Type} (f : State → α), f { u with cpc := { u.cpc with ind := s.cpc.ind, optr2 := s.cpc.optr2 } } =
    f (s.setSur2 half) := fun f => congrArg f hu
  obtain ⟨regs, five, bits, frame⟩ := s.assist_spec u j w (before fun x => x.cpc.rsu) (before fun x => x.cpc.sr)
  have kept : ∀ {α : Type} (f : State → α), f { t with cpc := { t.cpc with rsu := u.cpc.rsu, sr := u.cpc.sr } } = f u :=
    fun f => congrArg f frame
  exact ⟨⟨(kept fun x => x.cpc.sur2).trans (before fun x => x.cpc.sur2), regs,
    (kept fun x => x.cpc.sur1).trans (before fun x => x.cpc.sur1), (kept fun x => x.cpc.optr1).trans (before fun x => x.cpc.optr1),
    (kept fun x => x.cpc.tally).trans (before fun x => x.cpc.tally), (kept State.mem).trans (before State.mem),
    (kept State.atc).trans (before State.atc), (kept State.pipe).trans (before State.pipe), five, bits⟩,
    kept fun x => x.cpc.ind, kept fun x => x.cpc.optr2, (kept fun x => x.cpc.ca1).trans (before fun x => x.cpc.ca1)⟩

/-- The halfword taken, then the match cleared where the machine clears it. -/
theorem tookHalf_enterSetna (s : State) (half : Half) : TookHalf s (s.setSur2 half).enterSetna half := by
  unfold State.enterSetna TookHalf
  split <;> rfl

/-- The indicators after SETNA took its halfword: only I6 may differ. -/
theorem State.indAt_enterSetna_setSur2 (s : State) (half : Half) :
    KeepsInd s (s.setSur2 half).enterSetna [6] ∧
      ((s.setSur2 half).enterSetna.indAt 6 = true ↔ s.indAt 6 = true ∧ s.plat.setnaResets = false) := by
  obtain ⟨⟨-, ind, -⟩, six⟩ := (s.setSur2 half).enterSetna_spec
  exact ⟨ind, six⟩

/-- Settles O43: each assist takes the halfword into its registers and steps the pointer by two. -/
theorem setupAssists : Obligations.SetupAssists := by
  intro j s half common
  have odd := s.oddPointer_iff
  refine ⟨fun h => ⟨if_pos (odd.mpr h), if_pos (odd.mpr h)⟩, fun h => ?_⟩
  have even : s.oddPointer 15 = false := Bool.eq_false_iff.mpr fun q => by
    have := odd.mp q
    omega
  constructor
  · have took : TookHalf s ((s.setSur2 half).setOptr2 (basePointer (topDigit half))) half := rfl
    obtain ⟨leaves, ind, optr2, -⟩ := State.assist_leaves j ((half.extractLsb' 0 12).setWidth 32) took
    refine ⟨_, _, exec_setia_even j s even, leaves, toNat_displacement half, ind, ?_⟩
    rw [← toNat_topDigit half]
    exact (congrArg BitVec.toNat optr2).trans (toNat_basePointer _)
  · intro displaces
    have run := exec_setna_even j even (show s.fhalf 15 = half from rfl) rfl
    have took := tookHalf_enterSetna s half
    obtain ⟨kept, six⟩ := s.indAt_enterSetna_setSur2 half
    have after : ∀ {α : Type} (f : State → α), f { (s.setSur2 half).enterSetna with
        cpc := { (s.setSur2 half).enterSetna.cpc with ind := s.cpc.ind, optr2 := s.cpc.optr2 } } = f (s.setSur2 half) :=
      fun f => congrArg f took
    have ca1 : (s.setSur2 half).enterSetna.cpc.ca1 = s.cpc.ca1 := after fun x => x.cpc.ca1
    have sur1 : (s.setSur2 half).enterSetna.cpc.sur1 = s.cpc.sur1 := after fun x => x.cpc.sur1
    have via : (s.setSur2 half).enterSetna.cpc.via = s.cpc.via := after fun x => x.cpc.via
    rw [sur1] at run
    have displacing : exec (.setna j) s = .next ((((s.setSur2 half).enterSetna.setOptr2 (optr2Setna half)).setRsu j
        ((half.extractLsb' 0 12).setWidth 32)).stepTwo s 15 false) → displaces := by
      intro run
      have took' : TookHalf s ((s.setSur2 half).enterSetna.setOptr2 (optr2Setna half)) half := took
      obtain ⟨leaves, ind, optr2, controls⟩ := State.assist_leaves j ((half.extractLsb' 0 12).setWidth 32) took'
      have inds := State.indAt_of_cpc (s := (s.setSur2 half).enterSetna) ind
        (controls.trans ca1.symm)
      refine ⟨_, _, run, leaves, toNat_displacement half, fun n h1 h8 h6 => (inds n).trans (kept n h1 h8 h6), ?_,
        (congrArg BitVec.toNat optr2).trans (toNat_optr2Setna half)⟩
      rw [inds 6]
      exact six
    cases format : Config.nvmFormat s.cpc.sur1 with
    | rm => exact displacing (by rw [format] at run; exact run)
    | mm => exact displacing (by rw [format] at run; exact run)
    | rr1 => rw [format] at run; exact run
    | rr2 => rw [format] at run; exact run
    | ri =>
      rw [format] at run
      obtain ⟨leaves, ind, optr2, controls⟩ := State.assist_leaves j (half.signExtend 32)
        (u := (s.setSur2 half).enterSetna.setIndAt 6 (s.setSur2 half).enterSetna.nvmMatch) took
      have inds := State.indAt_of_cpc (s := (s.setSur2 half).enterSetna.setIndAt 6 (s.setSur2 half).enterSetna.nvmMatch) ind
        (controls.trans ca1.symm)
      refine ⟨_, _, run, leaves, BitVec.toInt_signExtend_of_le (by decide),
        optr2.trans ?_, fun n h1 h8 h6 => ?_, ?_⟩
      · show (s.setSur2 half).enterSetna.cpc.optr2 = s.cpc.optr2
        unfold State.enterSetna
        split <;> rfl
      · rw [inds n, State.indAt_setIndAt _ 6 n _ (by decide) (by decide) h1, if_neg fun q => h6 (by simp [← q])]
        exact kept n h1 h8 h6
      · rw [inds 6, State.indAt_setIndAt _ 6 6 _ (by decide) (by decide) (by decide), if_pos rfl, State.nvmMatch_iff, sur1, via]

/-! ### Commands of the bus -/

/-- ERU 63 is the EAC: a write to it loads no register (20 R191; 47 R672). -/
theorem State.eruWrite_eac (s : State) (d : Word) :
    ∃ x, s.eruWrite 63#7 d = .ok { s with atc := { s.atc with rrResetting := x } } := by
  show ∃ x, (if !s.plat.atcPresent then Except.ok s else Except.ok s.atcReceived) = .ok { s with atc := { s.atc with rrResetting := x } }
  split
  · exact ⟨s.atc.rrResetting, rfl⟩
  · exact ⟨false, rfl⟩

/-- I7 and EACA set: bit 14 of Control Array 1, I7, nothing else. -/
theorem State.setEac_spec (s : State) :
    let t := (s.setIndAt 7 true).setCa1At 14 true
    (∀ n, 9 ≤ n → n ≤ 16 → t.ca1At n = if n = 14 then true else s.ca1At n) ∧
      ∀ n, 1 ≤ n → n ≤ 8 → t.indAt n = if n = 7 then true else s.indAt n := by
  intro t
  have ca1 : ∀ n, 9 ≤ n → n ≤ 16 → t.ca1At n = if n = 14 then true else s.ca1At n := fun n h9 h16 => by
    show (State.setCa1 (s.setIndAt 7 true) (putBit s.cpc.ca1 6 true)).ca1At n = _
    rw [State.ca1At_setCa1, bitAt_putBit _ _ _ _ (by omega) (by omega) (by omega)]
    simp only [show (n = 14 ↔ 6 = n - 8) by omega]
    rfl
  refine ⟨ca1, fun n h1 h8 => ?_⟩
  rcases Nat.lt_or_ge n 8 with h | h
  · rw [show t.indAt n = (s.setIndAt 7 true).indAt n from State.indAt_setCa1 _ _ h1 (by omega),
      State.indAt_setIndAt s 7 n true (by decide) (by decide) h1]
    simp only [eq_comm]
  · obtain rfl : n = 8 := by omega
    rw [State.indAt_eight, ca1 9 (by decide) (by decide), State.indAt_eight]
    rfl

/-- Settles O47: the commands drop a fetched word; EAF sets its two bits. -/
theorem busCommands : Obligations.BusCommands := by
  intro lit s
  obtain ⟨-, controls, cpc, mem, pipe, plat, bkpt, inputs, now, fresh, -⟩ := s.dropFetch_keeps
  have idle : s.cpc.fetch = none → s.dropFetch = s := fun h => by
    unfold State.dropFetch
    rw [h]
    show { s with cpc := { s.cpc with fetch := none } } = s
    rw [← h]
  refine ⟨?_, s.dropFetch, rfl, cpc, mem, pipe, controls, idle⟩
  obtain ⟨x, run⟩ := s.dropFetch.eruWrite_eac (lit.setWidth 32)
  generalize hu : { s.dropFetch with atc := { s.dropFetch.atc with rrResetting := x } } = u at run
  obtain ⟨ca1, ind⟩ := u.setEac_spec
  have sameInd : u.cpc.ind = s.cpc.ind := by rw [← hu, cpc]
  have sameCa1 : u.cpc.ca1 = s.cpc.ca1 := by rw [← hu, cpc]
  have keptInd : KeepsInd s ((u.setIndAt 7 true).setCa1At 14 true) [7] := fun n h1 h8 h7 =>
    ((ind n h1 h8).trans (if_neg (by simpa using h7))).trans (State.indAt_of_cpc sameInd sameCa1 n)
  refine ⟨(u.setIndAt 7 true).setCa1At 14 true, ?_, ind 7 (by decide) (by decide), ca1 14 (by decide) (by decide),
    fun n h9 h16 h14 => ((ca1 n h9 h16).trans (if_neg h14)).trans ?_, ?_, fun r => ?_, keptInd, ?_, ?_, ?_, fun h => ?_⟩
  · show settle (s.dropFetch.eruWrite 63#7 (lit.setWidth 32)) _ = _
    rw [run]
    rfl
  · exact congrArg (bitAt · (n - 8)) sameCa1
  · show u.cpc.fetch = none
    rw [← hu, cpc]
  · have same : u.cpc.rsu = s.cpc.rsu := by rw [← hu, cpc]
    exact State.rsu_of_cpc (t := (u.setIndAt 7 true).setCa1At 14 true) same r
  · exact (congrArg State.mem hu).symm.trans mem
  · exact (congrArg State.pipe hu).symm.trans pipe
  · subst hu
    exact controls
  · rw [idle h] at hu
    subst hu
    refine ⟨fun _ _ => rfl, fun n h1 h8 h7 => ?_, fun _ => rfl, rfl, rfl, rfl, rfl, rfl, rfl, rfl, rfl⟩
    exact (State.indAt_setIndAt s 7 n true (by decide) (by decide) h1).trans (if_neg fun q => h7 (by simp [← q]))

end Sys2Proof.Machine
end

section
/-! The field instructions on one and two units (42). -/

namespace Sys2Proof.Machine

/-! ### Units that step -/

/-- `SR` where the units `units` have stepped from `s`: the flags of those at the edge are set, no other bit changed. -/
def RaisesFlags (s u : State) (units : List RsuNum) (dec : Bool) : Prop :=
  ∀ n, 1 ≤ n → (bitAt u.cpc.sr n = true ↔ bitAt s.cpc.sr n = true ∨ ∃ k ∈ units, n = k.toNat / 2 - 2 ∧ AtEdge s k dec)

/-- No unit has stepped. -/
theorem RaisesFlags.none {s u : State} (dec : Bool) (h : u.cpc.sr = s.cpc.sr) : RaisesFlags s u [] dec := fun n _ => by
  rw [h]
  simp

/-- One unit more, with its address register as it was. -/
theorem RaisesFlags.stepUnit {s u : State} {units : List RsuNum} {dec : Bool} (h : RaisesFlags s u units dec) {k : RsuNum}
    (hk : IsMars k) (addr : u.rsu (evenOf k) = s.rsu (evenOf k)) : RaisesFlags s (u.stepUnit k dec) (units ++ [k]) dec := by
  intro n h1
  rw [State.sr_stepUnit _ _ _ hk n h1, Bool.or_eq_true, h n h1, Bool.and_eq_true, State.crosses_of_rsu k dec addr,
    State.crosses_iff, decide_eq_true_iff]
  simp only [List.mem_append, List.mem_singleton, or_and_right, exists_or, exists_eq_left, or_assoc, and_comm]

/-- The direction is written last. -/
theorem RaisesFlags.direction {s u : State} {units : List RsuNum} {dec : Bool} (h : RaisesFlags s u units dec) :
    StepsFlags s (u.setDirection dec) units dec := by
  intro n h1 _
  rw [show (u.setDirection dec) = u.setSrAt 1 dec from rfl, State.sr_setSrAt _ _ _ _ (by decide) (by decide) h1]
  by_cases one : 1 = n
  · rw [if_pos one, if_pos one.symm]
  · rw [if_neg one, if_neg (Ne.symm one)]
    exact h n h1

/-- The tally counts down, the direction is written. -/
theorem RaisesFlags.countByte {s u : State} {units : List RsuNum} {dec : Bool} (h : RaisesFlags s u units dec) :
    StepsFlags s (u.countByte dec) units dec :=
  RaisesFlags.direction (u := u.setTally (u.cpc.tally - 1)) h

/-- No pointer has moved; only registers in `ks` have changed. -/
theorem movesPointers_none {s u : State} {ks : List RsuNum} (dec : Bool) (h : KeepsRsu s u ks) : MovesPointers s u [] ks dec :=
  ⟨fun _ hk => absurd hk List.not_mem_nil, h⟩

/-- One pointer more has moved. -/
theorem MovesPointers.move {s u t : State} {units ks : List RsuNum} {dec : Bool} {k : RsuNum} (h : MovesPointers s u units ks dec)
    (new : evenOf k ∉ units.map evenOf ++ ks)
    (moved : ∀ r, t.rsu r = if r = evenOf k then movedBy (u.rsu (evenOf k)) (unitStep dec) else u.rsu r) :
    MovesPointers s t (units ++ [k]) ks dec := by
  obtain ⟨pointers, others⟩ := h
  constructor
  · intro q hq
    rcases List.mem_append.mp hq with hq | hq
    · have other : evenOf q ≠ evenOf k := fun e => new (List.mem_append_left _ (e ▸ List.mem_map_of_mem hq))
      rw [moved, if_neg other]
      exact pointers q hq
    · obtain rfl := List.mem_singleton.mp hq
      rw [moved, if_pos rfl, others _ new]
  · intro r hr
    simp only [List.map_append, List.map_cons, List.map_nil, List.mem_append, List.mem_singleton] at hr
    rw [moved, if_neg fun e => hr (.inl (.inr e))]
    exact others r fun e => hr ((List.mem_append.mp e).imp .inl id)

/-- The end of a step: the direction written, with or without a count. -/
theorem steps_end {s u : State} {units ks : List RsuNum} {dec : Bool} (flags : RaisesFlags s u units dec)
    (moves : MovesPointers s u units ks dec) (tally : u.cpc.tally = s.cpc.tally) :
    ((StepsFlags s (u.setDirection dec) units dec ∧ MovesPointers s (u.setDirection dec) units ks dec) ∧
      (u.setDirection dec).cpc.tally = s.cpc.tally) ∧
    (StepsFlags s (u.countByte dec) units dec ∧ MovesPointers s (u.countByte dec) units ks dec) ∧
      (u.countByte dec).cpc.tally = s.cpc.tally - 1 :=
  ⟨⟨⟨flags.direction, moves⟩, tally⟩, ⟨flags.countByte, moves⟩, congrArg (· - 1) tally⟩

/-- The address registers of the units are none of the byte operands. -/
theorem byteReg_ne_evenOf (j : ByteAddr) {k : RsuNum} (hk : IsMars k) : byteReg j ≠ evenOf k := by
  have := hk
  revert j k
  decide

/-- The byte operands stay where a register of a unit changes. -/
theorem State.byteOp_of_rsu {s t : State} (j : ByteAddr) (h : t.rsu (byteReg j) = s.rsu (byteReg j)) : t.byteOp j = s.byteOp j := by
  unfold State.byteOp
  rw [h]

/-- A step of a unit leaves the byte operands. -/
theorem State.byteOp_stepUnit (s : State) (j : ByteAddr) {k : RsuNum} (hk : IsMars k) (dec : Bool) :
    (s.stepUnit k dec).byteOp j = s.byteOp j :=
  State.byteOp_of_rsu j (by rw [State.rsu_stepUnit, if_neg (byteReg_ne_evenOf j hk)])

/-! ### A field byte to a register -/

/-- What TFB leaves: the byte, its checks, nothing else. -/
def LoadsByte (s t : State) (j : ByteAddr) (b : Byte) : Prop :=
  t.byteOp j = b ∧ KeepsOtherBytes s t j ∧ ChecksBytes s t [b] ∧ KeepsInd s t [5, 6] ∧ t.cpc.m6wt = s.cpc.m6wt ∧
    KeepsOutsideFields s t

/-- The transfer itself, without a step. -/
theorem State.fieldToByte_loads (s : State) (j : ByteAddr) (k : RsuNum) :
    LoadsByte s (s.fieldToByte j k) j (byteOf (s.rsu k) (s.pointer (evenOf k))) ∧ KeepsRsu s (s.fieldToByte j k) [byteReg j] ∧
      (s.fieldToByte j k).cpc.sr = s.cpc.sr ∧ (s.fieldToByte j k).cpc.tally = s.cpc.tally := by
  obtain ⟨value, others, regs, -⟩ := (s.bcdCheck true (s.fbyte k)).setByteOp_spec j (s.fbyte k)
  obtain ⟨-, ind, -⟩ := s.frame_bcdCheck true (s.fbyte k)
  exact ⟨⟨value, others, s.checksBytes_one _, ind, rfl, rfl⟩, regs, rfl, rfl⟩

/-- A byte loaded stays loaded over a step of the unit, with or without a count. -/
theorem LoadsByte.stepUnit {s u : State} {j : ByteAddr} {b : Byte} (h : LoadsByte s u j b) {k : RsuNum} (hk : IsMars k) (dec : Bool) :
    LoadsByte s (u.stepUnit k dec) j b := by
  obtain ⟨value, others, ⟨five, six⟩, ind, tags, outside⟩ := h
  refine ⟨(u.byteOp_stepUnit j hk dec).trans value, fun a ha => (u.byteOp_stepUnit a hk dec).trans (others a ha), ⟨?_, ?_⟩,
    fun n h1 h8 hn => (u.indAt_stepUnit k dec n).trans (ind n h1 h8 hn), (u.stepUnit_m6wt k dec).trans tags,
    State.outside_stepUnit k dec outside⟩
  · rw [State.indAt_stepUnit]
    exact five
  · rw [State.indAt_stepUnit]
    exact six

/-- A byte loaded stays loaded when the tally and `SR` are written. -/
theorem LoadsByte.ends {s u : State} {j : ByteAddr} {b : Byte} (h : LoadsByte s u j b) (dec : Bool) :
    LoadsByte s (u.setDirection dec) j b ∧ LoadsByte s (u.countByte dec) j b := ⟨h, h⟩

/-- The byte loaded, the unit stepped. -/
theorem State.fieldToByte_steps (s : State) (j : ByteAddr) {k : RsuNum} (hk : IsMars k) (dec : Bool) :
    let u := (s.fieldToByte j k).stepUnit k dec
    LoadsByte s u j (byteOf (s.rsu k) (s.pointer (evenOf k))) ∧ RaisesFlags s u [k] dec ∧ MovesPointers s u [k] [byteReg j] dec ∧
      u.cpc.tally = s.cpc.tally := by
  obtain ⟨loads, regs, sr, tally⟩ := s.fieldToByte_loads j k
  generalize s.fieldToByte j k = v at loads regs sr tally
  have addr : evenOf k ∉ [byteReg j] := fun e => byteReg_ne_evenOf j hk (List.mem_singleton.mp e).symm
  exact ⟨loads.stepUnit hk dec, (RaisesFlags.none dec sr).stepUnit hk (regs _ addr),
    (movesPointers_none dec regs).move addr (v.rsu_stepUnit k dec), (v.stepUnit_tally k dec).trans tally⟩

/-- The five transfers of a field byte to a register, as states. -/
theorem exec_fieldToByte (j : ByteAddr) (k : RsuNum) (s : State) :
    exec (.tfb j k) s = .next (s.fieldToByte j k) ∧
    exec (.tfbdn j k) s = .next (((s.fieldToByte j k).stepUnit k true).setDirection true) ∧
    exec (.tfbin j k) s = .next (((s.fieldToByte j k).stepUnit k false).setDirection false) ∧
    exec (.tfbd j k) s = .next (s.unlessVoid fun s => ((s.fieldToByte j k).stepUnit k true).countByte true) ∧
    exec (.tfbi j k) s = .next (s.unlessVoid fun s => ((s.fieldToByte j k).stepUnit k false).countByte false) :=
  ⟨rfl, rfl, rfl, rfl, rfl⟩

/-- A step that a tally of 0 voids. -/
theorem State.unlessVoid_cases (s : State) (f : State → State) :
    (s.cpc.tally = 0#16 → s.unlessVoid f = s) ∧ (s.cpc.tally ≠ 0#16 → s.unlessVoid f = f s) :=
  ⟨fun h => if_pos h, fun h => if_neg h⟩

/-- Settles O25: the byte is loaded first, then the unit steps, then the count and the direction follow. -/
theorem fieldBytesToRegister : Obligations.FieldBytesToRegister := by
  intro j k s hk
  have mars : IsMars k := by
    rcases hk with h | h | h
    · exact .inl h
    · exact .inr (.inl h)
    · exact .inr (.inr (.inr h))
  obtain ⟨loads, regs, sr, tally⟩ := s.fieldToByte_loads j k
  obtain ⟨loadsL, flagsL, movesL, tallyL⟩ := s.fieldToByte_steps j mars true
  obtain ⟨loadsR, flagsR, movesR, tallyR⟩ := s.fieldToByte_steps j mars false
  obtain ⟨endL, countL⟩ := steps_end flagsL movesL tallyL
  obtain ⟨endR, countR⟩ := steps_end flagsR movesR tallyR
  obtain ⟨plainL, countedL⟩ := loadsL.ends true
  obtain ⟨plainR, countedR⟩ := loadsR.ends false
  obtain ⟨plain, left, right, counts⟩ := exec_fieldToByte j k s
  refine ⟨⟨_, plain, loads, regs, sr, tally⟩, ⟨_, left, ⟨plainL, endL.1⟩, endL.2⟩, ⟨_, right, ⟨plainR, endR.1⟩, endR.2⟩,
    fun h => ?_, fun h => ?_⟩
  · rw [(s.unlessVoid_cases _).1 h, (s.unlessVoid_cases _).1 h] at counts
    exact counts
  · rw [(s.unlessVoid_cases _).2 h, (s.unlessVoid_cases _).2 h] at counts
    exact ⟨⟨_, counts.1, ⟨countedL, countL.1⟩, countL.2⟩, ⟨_, counts.2, ⟨countedR, countR.1⟩, countR.2⟩⟩

/-! ### A register byte to MARS6 -/

/-- What TBF leaves: the byte and its tag in MARS6, its checks, nothing else. -/
def StoresByte (s t : State) (b : Byte) : Prop :=
  PutsField s t b ∧ ChecksBytes s t [b] ∧ KeepsInd s t [5, 6] ∧ KeepsOutsideFields s t

/-- A byte checked and put in MARS6. -/
theorem State.checkAndPut_stores (s : State) (b : Byte) :
    let t := (s.bcdCheck true b).put6 b
    StoresByte s t b ∧ KeepsRsu s t [13] ∧ t.cpc.sr = s.cpc.sr ∧ t.cpc.tally = s.cpc.tally := by
  obtain ⟨-, ind, -⟩ := s.frame_bcdCheck true b
  refine ⟨⟨(s.bcdCheck true b).put6_puts b, s.checksBytes_one b, ind, rfl⟩, fun r hr => ?_, rfl, rfl⟩
  exact (s.bcdCheck true b).rsu_put6 b r fun e => hr (List.mem_singleton.mpr e)

/-- A byte put in MARS6 stays over a step of a unit. -/
theorem StoresByte.stepUnit {s u : State} {b : Byte} (h : StoresByte s u b) {k : RsuNum} (hk : IsMars k) (dec : Bool) :
    StoresByte s (u.stepUnit k dec) b := by
  obtain ⟨⟨data, tags⟩, ⟨five, six⟩, ind, outside⟩ := h
  have other : (13 : RsuNum) ≠ evenOf k := by
    rcases hk with rfl | rfl | rfl | rfl <;> decide
  refine ⟨⟨?_, fun n h1 h4 => ?_⟩, ⟨?_, ?_⟩, fun n h1 h8 hn => (u.indAt_stepUnit k dec n).trans (ind n h1 h8 hn),
    State.outside_stepUnit k dec outside⟩
  · rw [State.rsu_stepUnit, if_neg other]
    exact data
  · rw [State.stepUnit_m6wt]
    exact tags n h1 h4
  · rw [State.indAt_stepUnit]
    exact five
  · rw [State.indAt_stepUnit]
    exact six

/-- A byte put stays put when the tally and `SR` are written. -/
theorem StoresByte.ends {s u : State} {b : Byte} (h : StoresByte s u b) (dec : Bool) :
    StoresByte s (u.setDirection dec) b ∧ StoresByte s (u.countByte dec) b := ⟨h, h⟩

/-- The byte put, the unit stepped. -/
theorem State.byteToField_steps (s : State) (j : ByteAddr) (dec : Bool) :
    let u := (s.byteToField j).stepUnit 13 dec
    StoresByte s u (s.byteOp j) ∧ RaisesFlags s u [13] dec ∧ MovesPointers s u [13] [13] dec ∧ u.cpc.tally = s.cpc.tally := by
  have mars : IsMars 13 := .inr (.inr (.inl rfl))
  obtain ⟨stores, regs, sr, tally⟩ := s.checkAndPut_stores (s.byteOp j)
  unfold State.byteToField
  generalize (s.bcdCheck true (s.byteOp j)).put6 (s.byteOp j) = v at stores regs sr tally
  exact ⟨stores.stepUnit mars dec, (RaisesFlags.none dec sr).stepUnit mars (regs _ (by decide)),
    (movesPointers_none dec regs).move (by decide) (v.rsu_stepUnit 13 dec), (v.stepUnit_tally 13 dec).trans tally⟩

/-- The five transfers of a register byte to MARS6, as states. -/
theorem exec_byteToField (j : ByteAddr) (s : State) :
    exec (.tbf j) s = .next (s.byteToField j) ∧
    exec (.tbfdn j) s = .next (((s.byteToField j).stepUnit 13 true).setDirection true) ∧
    exec (.tbfin j) s = .next (((s.byteToField j).stepUnit 13 false).setDirection false) ∧
    exec (.tbfd j) s = .next (s.unlessVoid fun s => ((s.byteToField j).stepUnit 13 true).countByte true) ∧
    exec (.tbfi j) s = .next (s.unlessVoid fun s => ((s.byteToField j).stepUnit 13 false).countByte false) :=
  ⟨rfl, rfl, rfl, rfl, rfl⟩

/-- Settles O26: the byte is put first, then the unit steps, then the count and the direction follow. -/
theorem registerBytesToField : Obligations.RegisterBytesToField := by
  intro j s
  obtain ⟨stores, regs, sr, tally⟩ := s.checkAndPut_stores (s.byteOp j)
  obtain ⟨storesL, flagsL, movesL, tallyL⟩ := s.byteToField_steps j true
  obtain ⟨storesR, flagsR, movesR, tallyR⟩ := s.byteToField_steps j false
  obtain ⟨endL, countL⟩ := steps_end flagsL movesL tallyL
  obtain ⟨endR, countR⟩ := steps_end flagsR movesR tallyR
  obtain ⟨plainL, countedL⟩ := storesL.ends true
  obtain ⟨plainR, countedR⟩ := storesR.ends false
  obtain ⟨plain, left, right, counts⟩ := exec_byteToField j s
  refine ⟨⟨_, plain, stores, regs, sr, tally⟩, ⟨_, left, ⟨plainL, endL.1⟩, endL.2⟩, ⟨_, right, ⟨plainR, endR.1⟩, endR.2⟩,
    fun h => ?_, fun h => ?_⟩
  · rw [(s.unlessVoid_cases _).1 h, (s.unlessVoid_cases _).1 h] at counts
    exact counts
  · rw [(s.unlessVoid_cases _).2 h, (s.unlessVoid_cases _).2 h] at counts
    exact ⟨⟨_, counts.1, ⟨countedL, countL.1⟩, countL.2⟩, ⟨_, counts.2, ⟨countedR, countR.1⟩, countR.2⟩⟩

/-! ### Field to field -/

/-- What a byte step reads and writes before its pointers move does not depend on the cycles left. -/
theorem State.fbyte_withCycles (s : State) (n : Nat) (k : RsuNum) : (s.withCycles n).fbyte k = s.fbyte k := rfl
theorem State.put6_withCycles (s : State) (n : Nat) (b : Byte) : (s.withCycles n).put6 b = (s.put6 b).withCycles n := rfl
theorem State.bcdCheck_withCycles (s : State) (n : Nat) (both : Bool) (b : Byte) :
    (s.withCycles n).bcdCheck both b = (s.bcdCheck both b).withCycles n := rfl

/-- Nor does it touch the pipeline. -/
theorem State.put6_pipe (s : State) (b : Byte) : (s.put6 b).pipe = s.pipe := rfl
theorem State.bcdCheck_pipe (s : State) (both : Bool) (b : Byte) : (s.bcdCheck both b).pipe = s.pipe := rfl

/-- One byte step of TFFD or TFFI does not depend on the cycles left. -/
theorem fieldTransferStep_withCycles (dec : Bool) (s : State) (n : Nat) :
    fieldTransferStep dec (s.withCycles n) = ((fieldTransferStep dec s).1.withCycles n, (fieldTransferStep dec s).2) := by
  unfold fieldTransferStep
  dsimp only
  rw [State.fbyte_withCycles, State.bcdCheck_withCycles, State.put6_withCycles, State.stepUnit_withCycles,
    State.stepUnit_withCycles, State.countByte_withCycles, State.crosses_withCycles, State.crosses_withCycles]

/-- One byte step of TFFD or TFFI: the byte put, both units stepped. -/
theorem fieldTransferStep_spec (dec : Bool) (s : State) :
    let t := (fieldTransferStep dec s).1
    StoresByte s t (s.fbyte 9) ∧ MovesPointers s t [9, 13] [13] dec ∧ StepsFlags s t [9, 13] dec ∧
      t.cpc.tally = s.cpc.tally - 1 := by
  have nine : IsMars 9 := .inl rfl
  have thirteen : IsMars 13 := .inr (.inr (.inl rfl))
  obtain ⟨stores, regs, sr, tally⟩ := s.checkAndPut_stores (s.fbyte 9)
  unfold fieldTransferStep
  dsimp only
  generalize (s.bcdCheck true (s.fbyte 9)).put6 (s.fbyte 9) = u at stores regs sr tally
  have first := (movesPointers_none dec regs).move (k := 9) (by decide) (State.rsu_stepUnit _ 9 dec)
  have flags := ((RaisesFlags.none dec sr).stepUnit nine (regs _ (by decide))).stepUnit thirteen (first.2 _ (by decide))
  have both := (stores.stepUnit nine dec).stepUnit thirteen dec
  have moves := first.move (k := 13) (by decide) (State.rsu_stepUnit _ 13 dec)
  have kept : ((u.stepUnit 9 dec).stepUnit 13 dec).cpc.tally = s.cpc.tally := by
    rw [State.stepUnit_tally, State.stepUnit_tally]
    exact tally
  generalize (u.stepUnit 9 dec).stepUnit 13 dec = v at both moves flags kept
  exact ⟨both, moves, flags.countByte, congrArg (· - 1) kept⟩

/-- TFFD and TFFI run their byte step. -/
theorem fieldTransfer_runs (dec : Bool) (i : Instr) (run : ∀ s, exec i s = s.fieldRun (fieldTransferStep dec)) :
    RunsBytes i (fun s t => PutsField s t (byteOf (s.rsu 9) (s.pointer 8)) ∧ MovesPointers s t [9, 13] [13] dec ∧
      StepsFlags s t [9, 13] dec ∧ t.cpc.tally = s.cpc.tally - 1 ∧ ChecksBytes s t [byteOf (s.rsu 9) (s.pointer 8)] ∧
      KeepsInd s t [5, 6] ∧ KeepsOutsideFields s t) fun s => AtEdge s 9 dec ∨ AtEdge s 13 dec := by
  refine State.runsBytes i (fieldTransferStep dec) _ _ run (fun s => ?_) (fun s => ?_) (fieldTransferStep_withCycles dec) fun s => ?_
  · obtain ⟨⟨puts, checks, ind, outside⟩, moves, flags, tally⟩ := fieldTransferStep_spec dec s
    exact ⟨puts, moves, flags, tally, checks, ind, outside⟩
  · rw [← State.crosses_iff, ← State.crosses_iff]
    exact Bool.or_eq_true _ _ ▸ Iff.rfl
  · unfold fieldTransferStep
    dsimp only
    rw [State.countByte_pipe, State.stepUnit_pipe, State.stepUnit_pipe, State.put6_pipe, State.bcdCheck_pipe]

/-- Settles O27: each instruction is the run of its byte step. -/
theorem fieldToFieldTransfers : Obligations.FieldToFieldTransfers :=
  ⟨fieldTransfer_runs true .tffd fun _ => rfl, fieldTransfer_runs false .tffi fun _ => rfl⟩

/-! ### Halfwords -/

/-- What every halfword transfer of the unit `u` leaves, besides its data: the tally two less, the direction, the other flags. -/
def StepsHalf (s t : State) (u : RsuNum) (dec : Bool) : Prop :=
  t.cpc.tally.toNat + 2 = s.cpc.tally.toNat ∧ t.cpc.ind = s.cpc.ind ∧ KeepsOutsideFields s t ∧ bitAt t.cpc.sr 1 = dec ∧
    ∀ n, 2 ≤ n → n ≤ 16 → n ≠ u.toNat / 2 - 2 → bitAt t.cpc.sr n = bitAt s.cpc.sr n

/-- A halfword step in all its cases: voided, refused with a tally of 1 or an odd pointer, else done. -/
theorem State.halfwordStep_cases (s : State) (i : Instr) (u : RsuNum) (dec : Bool) (f : State → State) (does : State → Prop)
    (run : exec i s = s.halfwordStep u f) (h : 2 ≤ s.cpc.tally.toNat → (s.pointer (evenOf u)).toNat % 2 = 0 →
      StepsHalf s (f s) u dec ∧ does (f s)) :
    (s.cpc.tally = 0#16 → exec i s = .next s) ∧ (s.cpc.tally = 1#16 → exec i s = .refused .halfwordTallyOne) ∧
    (2 ≤ s.cpc.tally.toNat → (s.pointer (evenOf u)).toNat % 2 = 1 → exec i s = .refused .oddFieldPointer) ∧
    (2 ≤ s.cpc.tally.toNat → (s.pointer (evenOf u)).toNat % 2 = 0 → ∃ t, exec i s = .next t ∧
      t.cpc.tally.toNat + 2 = s.cpc.tally.toNat ∧ t.cpc.ind = s.cpc.ind ∧ KeepsOutsideFields s t ∧ bitAt t.cpc.sr 1 = dec ∧
      (∀ n, 2 ≤ n → n ≤ 16 → n ≠ u.toNat / 2 - 2 → bitAt t.cpc.sr n = bitAt s.cpc.sr n) ∧ does t) := by
  rw [run]
  refine ⟨s.halfwordStep_void u f, s.halfwordStep_one u f, s.halfwordStep_odd u f, fun h2 hp => ?_⟩
  obtain ⟨⟨tally, ind, outside, dir, flags⟩, data⟩ := h h2 hp
  exact ⟨f s, s.halfwordStep_runs u f h2 hp, tally, ind, outside, dir, flags, data⟩

/-- The end of a halfword step from a state `u` that only loaded data. -/
theorem State.endHalf_steps {s u : State} {k : RsuNum} (dec : Bool) (hk : IsMars k) (h2 : 2 ≤ s.cpc.tally.toNat)
    (ht : u.cpc.tally = s.cpc.tally) (hi : u.cpc.ind = s.cpc.ind) (hs : u.cpc.sr = s.cpc.sr) (ho : KeepsOutsideFields s u) :
    StepsHalf s (u.endHalf s k dec) k dec := by
  obtain ⟨-, tally, -, ind, outside, dir, flags, -⟩ := u.endHalf_spec s k dec hk
  refine ⟨?_, ind.trans hi, outside s ho, dir, fun n h1 _ hn => (flags n h1 hn).trans (by rw [hs])⟩
  have two : (2 : Half) ≤ s.cpc.tally := h2
  rw [tally, ht, BitVec.toNat_sub_of_le two]
  exact Nat.sub_add_cancel h2

/-- A register loaded with `w`, and the write tags `g` if it is MARS6's data register: nothing else. -/
theorem State.loadTagged_spec (s : State) (j : RsuNum) (w : Word) (g : Digit) :
    let t := if j = 13#4 then (s.setRsu j w).setM6wt g else s.setRsu j w
    (∀ r, t.rsu r = if r = j then w else s.rsu r) ∧ t.cpc.m6wt = (if j = 13#4 then g else s.cpc.m6wt) ∧
      t.cpc.tally = s.cpc.tally ∧ t.cpc.ind = s.cpc.ind ∧ t.cpc.sr = s.cpc.sr ∧ KeepsOutsideFields s t := by
  have regs : ∀ r, (s.setRsu j w).rsu r = if r = j then w else s.rsu r := fun r => by
    rw [State.rsu_setRsu]
    simp only [eq_comm]
  dsimp only
  split
  · exact ⟨regs, rfl, rfl, rfl, rfl, rfl⟩
  · exact ⟨regs, rfl, rfl, rfl, rfl, rfl⟩

/-- A half of a register loaded by a field instruction: the register, the tags if it is MARS6's, nothing else. -/
theorem State.loadHalf_spec (s : State) (j : RsuNum) (h : Half) (left : Bool) :
    let t := if left then s.loadLeft j h else s.loadRight j h
    (∀ r, t.rsu r = if r = j then (if left then withLeft (s.rsu j) h else withRight (s.rsu j) h) else s.rsu r) ∧
      t.cpc.m6wt = (if j = 13#4 then s.cpc.m6wt ||| (if left then 0b1100#4 else 0b0011#4) else s.cpc.m6wt) ∧
      t.cpc.tally = s.cpc.tally ∧ t.cpc.ind = s.cpc.ind ∧ t.cpc.sr = s.cpc.sr ∧ KeepsOutsideFields s t := by
  cases left
  · exact s.loadTagged_spec j _ _
  · exact s.loadTagged_spec j _ _

/-- A field halfword loaded in a half of `RSU[j]`, then the step. -/
theorem State.fieldToHalf_spec (s : State) (j : RsuNum) {k : RsuNum} (left dec : Bool) (hk : IsMars k) (h : Half)
    (h2 : 2 ≤ s.cpc.tally.toNat) :
    let w := if left then withLeft (s.rsu j) h else withRight (s.rsu j) h
    let t := (if left then s.loadLeft j h else s.loadRight j h).endHalf s k dec
    StepsHalf s t k dec ∧
    t.cpc.m6wt = (if j = 13#4 then s.cpc.m6wt ||| (if left then 0b1100#4 else 0b0011#4) else s.cpc.m6wt) ∧
    (∀ r, t.rsu r =
      if r = evenOf k then pointedAt (if evenOf k = j then w else s.rsu (evenOf k)) (s.pointer (evenOf k) + 2)
      else if r = j then w else s.rsu r) ∧
    (bitAt t.cpc.sr (k.toNat / 2 - 2) = true ↔
      bitAt s.cpc.sr (k.toNat / 2 - 2) = true ∨ s.pointer (evenOf k) = if dec then 0#2 else 2#2) := by
  intro w t
  obtain ⟨regs, tags, tally, ind, sr, outside⟩ := s.loadHalf_spec j h left
  have steps := State.endHalf_steps dec hk h2 tally ind sr outside
  obtain ⟨regs', -, tags', -, -, -, -, flag⟩ := (if left then s.loadLeft j h else s.loadRight j h).endHalf_spec s k dec hk
  refine ⟨steps, tags'.trans tags, fun r => ?_, by rw [flag, sr]⟩
  rw [regs' r, regs, regs]

/-- A halfword to MARS6, then the step; bytes left over when the tally runs out set M6OF (R466). -/
theorem State.halfToField_spec (s : State) (h : Half) (dec : Bool) (h2 : 2 ≤ s.cpc.tally.toNat) :
    let u := (s.put6h h).endHalf s 13 dec
    let t := u.overflow 13 (u.cpc.tally == 0#16 && u.cpc.m6wt != 0#4)
    StepsHalf s t 13 dec ∧
    (bitAt t.cpc.sr 4 = true ↔
      bitAt s.cpc.sr 4 = true ∨ (s.pointer 12 = if dec then 0#2 else 2#2) ∨ (t.cpc.tally = 0#16 ∧ t.cpc.m6wt ≠ 0#4)) ∧
    KeepsRsu s t [12, 13] ∧ t.rsu 12 = movedBy (s.rsu 12) 2#2 ∧
    (s.pointer 12 = 0#2 → t.rsu 13 = withLeft (s.rsu 13) h ∧ t.cpc.m6wt = s.cpc.m6wt ||| 0b1100#4) ∧
    (s.pointer 12 = 2#2 → t.rsu 13 = withRight (s.rsu 13) h ∧ t.cpc.m6wt = s.cpc.m6wt ||| 0b0011#4) := by
  intro u t
  have mars : IsMars 13 := .inr (.inr (.inl rfl))
  obtain ⟨steps, tags, regs, flag⟩ := s.fieldToHalf_spec 13 (k := 13) (decide (s.pointer 12 = 0#2)) dec mars h h2
  have same : (if decide (s.pointer 12 = 0#2) = true then s.loadLeft 13 h else s.loadRight 13 h).endHalf s 13 dec = u := by
    simp only [decide_eq_true_iff]
    rfl
  rw [same] at steps tags regs flag
  obtain ⟨tally, ind, outside, dir, flags⟩ := steps
  have data : u.rsu 13 = if decide (s.pointer 12 = 0#2) = true then withLeft (s.rsu 13) h else withRight (s.rsu 13) h := regs 13
  have moved : ∀ r, t.rsu r = u.rsu r := fun r => State.rsu_overflow u 13 _ r
  have bits : ∀ n, 1 ≤ n → bitAt t.cpc.sr n = (bitAt u.cpc.sr n || ((u.cpc.tally == 0#16 && u.cpc.m6wt != 0#4) && decide (n = 4))) :=
    fun n h1 => u.sr_overflow 13 _ mars n h1
  have indT : t.cpc.ind = u.cpc.ind := by
    show (u.overflow 13 _).cpc.ind = _
    unfold State.overflow
    split <;> rfl
  have tallyT : t.cpc.tally = u.cpc.tally := State.overflow_tally u 13 _
  have tagsT : t.cpc.m6wt = u.cpc.m6wt := State.overflow_m6wt u 13 _
  refine ⟨⟨by rw [tallyT]; exact tally, indT.trans ind, State.outside_overflow 13 _ outside, ?_, fun n h1 h16 hn => ?_⟩, ?_, ?_, ?_,
    fun p => ?_, fun p => ?_⟩
  · rw [bits 1 (by decide), dir]
    exact (congrArg (dec || ·) (Bool.and_false _)).trans (Bool.or_false _)
  · rw [bits n (by omega), flags n h1 h16 hn, show decide (n = 4) = false from decide_eq_false hn, Bool.and_false, Bool.or_false]
  · have four : bitAt u.cpc.sr 4 = true ↔ bitAt s.cpc.sr 4 = true ∨ s.pointer 12 = if dec then 0#2 else 2#2 := flag
    rw [bits 4 (by decide), tallyT, tagsT, Bool.or_eq_true, four, or_assoc]
    simp
  · intro r hr
    have h12 : r ≠ 12 := fun e => hr (by simp [e])
    have h13 : r ≠ 13 := fun e => hr (by simp [e])
    rw [moved, regs, if_neg (show r ≠ evenOf 13 from h12), if_neg h13]
  · rw [moved, regs]
    rfl
  · rw [moved, tagsT, tags, data, decide_eq_true p]
    exact ⟨rfl, rfl⟩
  · rw [moved, tagsT, tags, data, decide_eq_false (by rw [p]; decide)]
    exact ⟨rfl, rfl⟩

/-- Settles O28: each transfer loads its half and ends the step by two, in every case of the tally and the pointer. -/
theorem halfwordTransfers : Obligations.HalfwordTransfers := by
  intro j k s hk half runs loads stores
  have mars : IsMars k := by
    rcases hk with h | h | h
    · exact .inl h
    · exact .inr (.inl h)
    · exact .inr (.inr (.inr h))
  have load : ∀ (i : Instr) (left dec : Bool), exec i s = s.halfwordStep k (fun s =>
      (if left then s.loadLeft j (s.fhalf k) else s.loadRight j (s.fhalf k)).endHalf s k dec) → loads i left dec :=
    fun i left dec run => s.halfwordStep_cases i k dec _ _ run fun h2 _ => s.fieldToHalf_spec j left dec mars (s.fhalf k) h2
  have store : ∀ (i : Instr) (h : Half) (dec : Bool), exec i s = s.halfToField h dec → stores i h dec :=
    fun i h dec run => s.halfwordStep_cases i 13 dec _ _ run fun h2 _ => s.halfToField_spec h dec h2
  exact ⟨load _ true true rfl, load _ true false rfl, load _ false true rfl, load _ false false rfl, store _ _ true rfl,
    store _ _ false rfl, store _ _ true rfl, store _ _ false rfl⟩

end Sys2Proof.Machine
end

section
/-! The field instructions on three fields and the field compares (43, 44). -/

namespace Sys2Proof.Machine

/-! ### Three fields -/

/-- The indicators after a step on three fields. -/
theorem State.indAt_endThree (u : State) (n : Nat) : u.endThree.1.indAt n = u.indAt n := by
  rw [State.endThree_eq]
  unfold State.afterThree
  rw [State.indAt_countByte, State.indAt_stepUnit, State.indAt_stepUnit, State.indAt_stepUnit]

/-- An instruction on three fields, whose byte step writes `w s` and then ends. -/
theorem threeFields_run (i : Instr) (w : State → State) (P : State → State → Prop)
    (run : ∀ s, exec i s = s.fieldRun fun s => (w s).endThree)
    (hP : ∀ s, P s (w s).endThree.1 ∧ ((w s).endThree.2 = true ↔ ThreeAtEdge s))
    (hc : ∀ s n, w (s.withCycles n) = (w s).withCycles n) (hk : ∀ s, (w s).pipe = s.pipe) : RunsBytes i P ThreeAtEdge := by
  refine State.runsBytes i _ P ThreeAtEdge run (fun s => (hP s).1) (fun s => (hP s).2) (fun s n => ?_) fun s => ?_
  · rw [hc, State.endThree_withCycles]
  · rw [State.endThree_pipe, hk]

/-! ### Booleans -/

/-- BAF, BOF and BEF: the byte put is the combination bit by bit. -/
theorem booleans_run (i : Instr) (f : Byte → Byte → Byte) (g : Bool → Bool → Bool)
    (run : ∀ s, exec i s = s.fieldRun (booleanStep f))
    (bits : ∀ (a b : Byte) (n : Nat), n < 8 → (f a b).getLsbD n = g (a.getLsbD n) (b.getLsbD n)) :
    RunsBytes i (fun s t => ∃ b : Byte,
      (∀ n, n < 8 → b.getLsbD n = g ((byteOf (s.rsu 9) (s.pointer 8)).getLsbD n) ((byteOf (s.rsu 11) (s.pointer 10)).getLsbD n)) ∧
      ThreeFieldStep s t b []) ThreeAtEdge := by
  refine threeFields_run i (fun s => s.put6 (f (s.fbyte 9) (s.fbyte 11))) _ run (fun s => ?_) (fun s n => ?_) fun s => ?_
  · obtain ⟨step, edge⟩ := s.threeFieldStep (s.put6 (f (s.fbyte 9) (s.fbyte 11))) (f (s.fbyte 9) (s.fbyte 11)) []
      (fun _ => rfl) rfl rfl rfl (fun _ _ _ _ => rfl) rfl
    exact ⟨⟨_, fun n h => bits _ _ n h, step⟩, edge⟩
  · rw [State.fbyte_withCycles, State.fbyte_withCycles, State.put6_withCycles]
  · exact State.put6_pipe _ _

/-- Settles O29: each instruction is the run of its boolean step. -/
theorem fieldLogic : Obligations.FieldLogic :=
  ⟨booleans_run .baf (fun a b => a &&& b) _ (fun _ => rfl) fun _ _ _ _ => BitVec.getLsbD_and,
    booleans_run .bof (fun a b => a ||| b) _ (fun _ => rfl) fun _ _ _ _ => BitVec.getLsbD_or,
    booleans_run .bef (fun a b => a ^^^ b) _ (fun _ => rfl) fun _ _ _ _ => BitVec.getLsbD_xor⟩

/-! ### Binary sums -/

/-- What AF and SF write before their pointers move: the byte and the carry. -/
def State.putBinary (s : State) (r : Sum 8) : State := (s.put6 r.value).setIndAt 4 r.carry

/-- One byte step of AF or SF. -/
theorem State.putBinary_spec (s : State) (r : Sum 8) :
    let t := (s.putBinary r).endThree
    t.1.indAt 4 = r.carry ∧ ThreeFieldStep s t.1 r.value [4] ∧ (t.2 = true ↔ ThreeAtEdge s) := by
  have ind : ∀ n, 1 ≤ n → (s.putBinary r).indAt n = if 4 = n then r.carry else s.indAt n := fun n h1 =>
    State.indAt_setIndAt (s.put6 r.value) 4 n r.carry (by decide) (by decide) h1
  obtain ⟨step, edge⟩ := s.threeFieldStep (s.putBinary r) r.value [4] (fun _ => rfl) rfl rfl rfl
    (fun n h1 _ hn => (ind n h1).trans (if_neg fun e => hn (by simp [← e]))) rfl
  exact ⟨(State.indAt_endThree _ 4).trans (ind 4 (by decide)), step, edge⟩

/-- AF and SF run their byte step. -/
theorem binary_run (i : Instr) (f : Byte → Byte → Bool → Sum 8) (P : State → State → Byte → Prop)
    (run : ∀ s, exec i s = s.fieldRun (binaryStep f))
    (hP : ∀ s t, t.indAt 4 = (f (byteOf (s.rsu 9) (s.pointer 8)) (byteOf (s.rsu 11) (s.pointer 10)) (s.indAt 4)).carry →
      P s t (f (byteOf (s.rsu 9) (s.pointer 8)) (byteOf (s.rsu 11) (s.pointer 10)) (s.indAt 4)).value) :
    RunsBytes i (fun s t => ∃ r, P s t r ∧ ThreeFieldStep s t r [4]) ThreeAtEdge := by
  refine threeFields_run i (fun s => s.putBinary (f (s.fbyte 9) (s.fbyte 11) (s.indAt 4))) _ run (fun s => ?_) (fun s n => rfl)
    fun s => rfl
  obtain ⟨carry, step, edge⟩ := s.putBinary_spec (f (s.fbyte 9) (s.fbyte 11) (s.indAt 4))
  exact ⟨⟨_, hP s _ carry, step⟩, edge⟩

/-- A sum of two bytes as numbers (R521). -/
theorem addC_byte (a b : Byte) (c : Bool) : (addC a b c).value.toNat = (a.toNat + b.toNat + c.toNat) % 256 := by
  rw [addC_value, BitVec.toNat_ofNat]

/-- A difference of two bytes as numbers (R521). -/
theorem subC_byte (a b : Byte) (c : Bool) :
    ((subC a b c).value.toNat : Int) = ((a.toNat : Int) - b.toNat - (1 - c.toNat : Nat)) % 256 := by
  have hb := b.isLt
  have hc := c.toNat_le
  rw [subC, addC_value, BitVec.toNat_ofNat, BitVec.toNat_not]
  omega

/-- Settles O30: each instruction is the run of its sum or difference. -/
theorem fieldSums : Obligations.FieldSums := by
  constructor
  · have run := binary_run .af addC (fun s t r => r.toNat = ((byteOf (s.rsu 9) (s.pointer 8)).toNat +
        (byteOf (s.rsu 11) (s.pointer 10)).toNat + carryOf s) % 256 ∧ (t.indAt 4 = true ↔
        256 ≤ (byteOf (s.rsu 9) (s.pointer 8)).toNat + (byteOf (s.rsu 11) (s.pointer 10)).toNat + carryOf s)) (fun _ => rfl)
      fun s t carry => ⟨addC_byte _ _ _, by rw [carry]; exact addC_carry _ _ _⟩
    simpa only [and_assoc] using run
  · have run := binary_run .sf subC (fun s t r => (r.toNat : Int) = (((byteOf (s.rsu 9) (s.pointer 8)).toNat : Int) -
        (byteOf (s.rsu 11) (s.pointer 10)).toNat - (1 - carryOf s : Nat)) % 256 ∧ (t.indAt 4 = true ↔
        (byteOf (s.rsu 11) (s.pointer 10)).toNat + (1 - carryOf s) ≤ (byteOf (s.rsu 9) (s.pointer 8)).toNat)) (fun _ => rfl)
      fun s t carry => ⟨subC_byte _ _ _, by rw [carry]; exact subC_carry _ _ _⟩
    simpa only [and_assoc] using run

/-! ### Decimal sums -/

/-- Only the indicators may differ. -/
def OnlyIndicators (s u : State) : Prop := { u with cpc := { u.cpc with ind := s.cpc.ind } } = s

/-- The check of a byte writes indicators alone. -/
theorem State.bcdCheck_only (s : State) (both : Bool) (v : Byte) : OnlyIndicators s (s.bcdCheck both v) := rfl

/-- Writes of indicators in a row. -/
theorem OnlyIndicators.trans {s u v : State} (h : OnlyIndicators s u) (g : OnlyIndicators u v) : OnlyIndicators s v := by
  unfold OnlyIndicators at *
  rw [← h, ← g]

/-- What is as before where only indicators differ. -/
theorem OnlyIndicators.kept {s u : State} (h : OnlyIndicators s u) : KeepsOutsideFields s u ∧ u.cpc.rsu = s.cpc.rsu ∧
    u.cpc.m6wt = s.cpc.m6wt ∧ u.cpc.sr = s.cpc.sr ∧ u.cpc.tally = s.cpc.tally := by
  have same : ∀ {α : Type} (f : State → α), f { u with cpc := { u.cpc with ind := s.cpc.ind } } = f s := fun f => congrArg f h
  refine ⟨?_, same fun x => x.cpc.rsu, same fun x => x.cpc.m6wt, same fun x => x.cpc.sr, same fun x => x.cpc.tally⟩
  unfold KeepsOutsideFields
  rw [← h]

/-- What a decimal step writes before its pointers move: the byte and the carry, from a state `u` that has the checks and has drawn
some free values. -/
def State.putDecimal (u : State) (b : Byte) (c : Bool) : State := (u.put6 b).setIndAt 4 c

/-- One decimal byte step, from the state after the checks. -/
theorem State.putDecimal_spec {s u : State} (x : Nat) (checked : OnlyIndicators s u) (hi : KeepsInd s u [5, 6]) (b : Byte) (c : Bool) :
    let t := (State.putDecimal { u with fresh := x } b c).endThree
    t.1.indAt 4 = c ∧ t.1.indAt 5 = u.indAt 5 ∧ t.1.indAt 6 = u.indAt 6 ∧ ThreeFieldStep s t.1 b [4, 5, 6] ∧
      (t.2 = true ↔ ThreeAtEdge s) := by
  intro t
  obtain ⟨hu, hr, hm, hs, ht⟩ := checked.kept
  have ind : ∀ n, 1 ≤ n → (State.putDecimal { u with fresh := x } b c).indAt n = if 4 = n then c else u.indAt n := fun n h1 =>
    State.indAt_setIndAt (State.put6 { u with fresh := x } b) 4 n c (by decide) (by decide) h1
  have tags : (State.putDecimal { u with fresh := x } b c).cpc.m6wt = (s.put6 b).cpc.m6wt := by
    show putBit u.cpc.m6wt (4 - (u.pointer 12).toNat) true = putBit s.cpc.m6wt (4 - (s.pointer 12).toNat) true
    unfold State.pointer
    rw [hm, State.rsu_of_cpc hr]
  have regs : ∀ r, (State.putDecimal { u with fresh := x } b c).rsu r = (s.put6 b).rsu r := fun r => by
    show (u.setRsu 13 (putByte (u.rsu 13) (u.pointer 12) b)).rsu r = (s.setRsu 13 (putByte (s.rsu 13) (s.pointer 12) b)).rsu r
    unfold State.pointer
    rw [State.rsu_setRsu, State.rsu_setRsu, State.rsu_of_cpc hr, State.rsu_of_cpc hr, State.rsu_of_cpc hr]
  obtain ⟨step, edge⟩ := s.threeFieldStep (State.putDecimal { u with fresh := x } b c) b [4, 5, 6] regs tags hs ht
    (fun n h1 h8 hn => ((ind n h1).trans (if_neg fun e => hn (by simp [← e]))).trans
      (hi n h1 h8 fun e => hn (List.mem_cons_of_mem 4 e))) hu
  exact ⟨(State.indAt_endThree _ 4).trans (ind 4 (by decide)), (State.indAt_endThree _ 5).trans (ind 5 (by decide)),
    (State.indAt_endThree _ 6).trans (ind 6 (by decide)), step, edge⟩

/-- A packed result draws free values or none. -/
theorem State.packedResult_state (s : State) (f : Byte → Byte → Bool → Byte × Bool) (a b : Byte) (c : Bool) :
    ∃ x, (s.packedResult f a b c).2 = { s with fresh := x } := by
  unfold State.packedResult
  split
  · exact ⟨s.fresh, rfl⟩
  · exact ⟨s.fresh + 1 + 1, rfl⟩

/-- A packed result does not depend on the cycles left. -/
theorem State.packedResult_withCycles (s : State) (n : Nat) (f : Byte → Byte → Bool → Byte × Bool) (a b : Byte) (c : Bool) :
    (s.withCycles n).packedResult f a b c = ((s.packedResult f a b c).1, (s.packedResult f a b c).2.withCycles n) := by
  unfold State.packedResult
  split <;> rfl

/-- What a step of APDF or SPDF writes before its pointers move. -/
def State.putPacked (s : State) (f : Byte → Byte → Bool → Byte × Bool) (a b : Byte) (c : Bool) : State :=
  let r := ((s.bcdCheck true a).bcdCheck true b).packedResult f a b c
  r.2.putDecimal r.1.1 r.1.2

/-- One byte step of APDF or SPDF. -/
theorem State.putPacked_spec (s : State) (f : Byte → Byte → Bool → Byte × Bool) (a b : Byte) (c : Bool) :
    let t := (s.putPacked f a b c).endThree
    (∃ r : Byte, (isPacked a = true → isPacked b = true → r = (f a b c).1 ∧ t.1.indAt 4 = (f a b c).2) ∧
      ChecksBytes s t.1 [a, b] ∧ ThreeFieldStep s t.1 r [4, 5, 6]) ∧ (t.2 = true ↔ ThreeAtEdge s) := by
  unfold State.putPacked
  obtain ⟨checks, -, ind, -⟩ := s.checkTwo_spec a b
  have only := (s.bcdCheck_only true a).trans (State.bcdCheck_only _ true b)
  generalize (s.bcdCheck true a).bcdCheck true b = u at *
  obtain ⟨-, result⟩ := u.packedResult_spec f a b c
  obtain ⟨x, drawn⟩ := u.packedResult_state f a b c
  dsimp only
  rw [drawn]
  generalize (u.packedResult f a b c).1 = r at result
  obtain ⟨four, five, six, step, edge⟩ := State.putDecimal_spec x only ind r.1 r.2
  refine ⟨⟨r.1, fun ha hb => ?_, checks.of_kept five six, step⟩, edge⟩
  rw [four, result ha hb]
  exact ⟨rfl, rfl⟩

/-- APDF and SPDF run their byte step. -/
theorem packed_run (i : Instr) (f : Byte → Byte → Bool → Byte × Bool) (sum : Nat → Nat → Nat → Int) (carry : Nat → Nat → Nat → Prop)
    (run : ∀ s, exec i s = s.fieldRun (packedStep f))
    (value : ∀ a b c, isPacked a = true → isPacked b = true → isPacked (f a b c).1 = true ∧
      (bcdValue (f a b c).1 : Int) = sum (bcdValue a) (bcdValue b) c.toNat % 100 ∧
      ((f a b c).2 = true ↔ carry (bcdValue a) (bcdValue b) c.toNat)) :
    RunsBytes i (fun s t =>
      let a := byteOf (s.rsu 9) (s.pointer 8)
      let b := byteOf (s.rsu 11) (s.pointer 10)
      ∃ r : Byte, (isPacked a = true → isPacked b = true → isPacked r = true ∧
          (bcdValue r : Int) = sum (bcdValue a) (bcdValue b) (carryOf s) % 100 ∧
          (t.indAt 4 = true ↔ carry (bcdValue a) (bcdValue b) (carryOf s))) ∧
        ChecksBytes s t [a, b] ∧ ThreeFieldStep s t r [4, 5, 6]) ThreeAtEdge := by
  refine threeFields_run i (fun s => s.putPacked f (s.fbyte 9) (s.fbyte 11) (s.indAt 4)) _ run (fun s => ?_) (fun s n => ?_)
    fun s => ?_
  · obtain ⟨⟨r, result, step⟩, edge⟩ := s.putPacked_spec f (s.fbyte 9) (s.fbyte 11) (s.indAt 4)
    refine ⟨⟨r, fun ha hb => ?_, step⟩, edge⟩
    obtain ⟨byte, four⟩ := result ha hb
    rw [byte, four]
    exact value _ _ _ ha hb
  · unfold State.putPacked
    dsimp only
    rw [State.fbyte_withCycles, State.fbyte_withCycles, State.bcdCheck_withCycles, State.bcdCheck_withCycles,
      show (s.withCycles n).indAt 4 = s.indAt 4 from rfl, State.packedResult_withCycles]
    rfl
  · unfold State.putPacked
    obtain ⟨x, drawn⟩ := ((s.bcdCheck true (s.fbyte 9)).bcdCheck true (s.fbyte 11)).packedResult_state f (s.fbyte 9) (s.fbyte 11)
      (s.indAt 4)
    dsimp only
    rw [drawn]
    rfl

/-- An unpacked result draws free values or none; with decimal digits it is computed (93 U30). -/
theorem State.digitResult_spec (s : State) (f : Digit → Digit → Bool → Digit × Bool) (a b : Digit) (c : Bool) :
    (∃ x, (s.digitResult f a b c).2 = { s with fresh := x }) ∧
      (a.toNat ≤ 9 → b.toNat ≤ 9 → (s.digitResult f a b c).1 = f a b c) := by
  unfold State.digitResult
  split
  · exact ⟨⟨s.fresh, rfl⟩, fun _ _ => rfl⟩
  · next h =>
    refine ⟨⟨s.fresh + 1 + 1, rfl⟩, fun ha hb => absurd ?_ h⟩
    rw [(isDecimal_iff a).mpr ha, (isDecimal_iff b).mpr hb]
    rfl

/-- An unpacked result does not depend on the cycles left. -/
theorem State.digitResult_withCycles (s : State) (n : Nat) (f : Digit → Digit → Bool → Digit × Bool) (a b : Digit) (c : Bool) :
    (s.withCycles n).digitResult f a b c = ((s.digitResult f a b c).1, (s.digitResult f a b c).2.withCycles n) := by
  unfold State.digitResult
  split <;> rfl

/-- What a step of AUDF or SUDF writes before its pointers move. -/
def State.putUnpacked (s : State) (f : Digit → Digit → Bool → Digit × Bool) (a b : Byte) (c : Bool) : State :=
  let r := ((s.bcdCheck false a).bcdCheck false b).digitResult f (rightDigit a) (rightDigit b) c
  r.2.putDecimal (3#4 ++ r.1.1) r.1.2

/-- The checks of two unpacked bytes: the right digits, the zones (R560). -/
theorem State.checkTwo_unpacked (s : State) (a b : Byte) :
    let u := (s.bcdCheck false a).bcdCheck false b
    (u.indAt 5 = true ↔ s.indAt 5 = true ∨ 9 < a.toNat % 16 ∨ 9 < b.toNat % 16) ∧
      (u.indAt 6 = true ↔ s.indAt 6 = true ∨ a.toNat / 16 ≠ 3 ∨ b.toNat / 16 ≠ 3) := by
  obtain ⟨fiveA, sixA⟩ := s.indAt_bcdCheck false a
  obtain ⟨fiveB, sixB⟩ := (s.bcdCheck false a).indAt_bcdCheck false b
  have bad : ∀ v : Byte, badDigit false v = true ↔ 9 < v.toNat % 16 := fun v => by
    simp only [badDigit, isDecimal, Bool.false_and, Bool.false_or, Bool.not_eq_true', decide_eq_false_iff_not, toNat_rightDigit,
      Nat.not_le]
  have zone : ∀ v : Byte, (leftDigit v != 3#4) = true ↔ v.toNat / 16 ≠ 3 := fun v => by
    rw [bne_iff_ne, Ne, ← BitVec.toNat_inj, toNat_leftDigit]
    rfl
  constructor
  · rw [fiveB, fiveA, Bool.or_eq_true, Bool.or_eq_true, bad, bad, or_assoc]
  · rw [sixB, sixA, Bool.or_eq_true, Bool.or_eq_true, zone, zone, or_assoc]

/-- One byte step of AUDF or SUDF. -/
theorem State.putUnpacked_spec (s : State) (f : Digit → Digit → Bool → Digit × Bool) (a b : Byte) (c : Bool) :
    let t := (s.putUnpacked f a b c).endThree
    (∃ d : Digit, (a.toNat % 16 ≤ 9 → b.toNat % 16 ≤ 9 → d = (f (rightDigit a) (rightDigit b) c).1 ∧
        t.1.indAt 4 = (f (rightDigit a) (rightDigit b) c).2) ∧
      (t.1.indAt 5 = true ↔ s.indAt 5 = true ∨ 9 < a.toNat % 16 ∨ 9 < b.toNat % 16) ∧
      (t.1.indAt 6 = true ↔ s.indAt 6 = true ∨ a.toNat / 16 ≠ 3 ∨ b.toNat / 16 ≠ 3) ∧
      ThreeFieldStep s t.1 (3#4 ++ d) [4, 5, 6]) ∧ (t.2 = true ↔ ThreeAtEdge s) := by
  unfold State.putUnpacked
  obtain ⟨check5, check6⟩ := s.checkTwo_unpacked a b
  obtain ⟨-, ind, -⟩ : Frame s ((s.bcdCheck false a).bcdCheck false b) [] [5, 6] :=
    ((s.frame_bcdCheck false a).trans (State.frame_bcdCheck _ false b)).mono (by simp) (by simp)
  have only := (s.bcdCheck_only false a).trans (State.bcdCheck_only _ false b)
  generalize (s.bcdCheck false a).bcdCheck false b = u at *
  obtain ⟨⟨x, drawn⟩, result⟩ := u.digitResult_spec f (rightDigit a) (rightDigit b) c
  dsimp only
  rw [drawn]
  generalize (u.digitResult f (rightDigit a) (rightDigit b) c).1 = r at result
  obtain ⟨four, five, six, step, edge⟩ := State.putDecimal_spec x only ind (3#4 ++ r.1) r.2
  refine ⟨⟨r.1, fun ha hb => ?_, by rw [five]; exact check5, by rw [six]; exact check6, step⟩, edge⟩
  rw [four, result (by rwa [toNat_rightDigit]) (by rwa [toNat_rightDigit])]
  exact ⟨rfl, rfl⟩

/-- AUDF and SUDF run their byte step. -/
theorem unpacked_run (i : Instr) (f : Digit → Digit → Bool → Digit × Bool) (sum : Nat → Nat → Nat → Int)
    (carry : Nat → Nat → Nat → Prop) (run : ∀ s, exec i s = s.fieldRun (unpackedStep f))
    (value : ∀ (x y : Digit) (c : Bool), x.toNat ≤ 9 → y.toNat ≤ 9 →
      ((f x y c).1.toNat : Int) = sum x.toNat y.toNat c.toNat % 10 ∧ ((f x y c).2 = true ↔ carry x.toNat y.toNat c.toNat)) :
    RunsBytes i (fun s t =>
      let a := byteOf (s.rsu 9) (s.pointer 8)
      let b := byteOf (s.rsu 11) (s.pointer 10)
      let x := a.toNat % 16
      let y := b.toNat % 16
      ∃ d : Digit, (x ≤ 9 → y ≤ 9 → (d.toNat : Int) = sum x y (carryOf s) % 10 ∧ (t.indAt 4 = true ↔ carry x y (carryOf s))) ∧
        (t.indAt 5 = true ↔ s.indAt 5 = true ∨ 9 < x ∨ 9 < y) ∧
        (t.indAt 6 = true ↔ s.indAt 6 = true ∨ a.toNat / 16 ≠ 3 ∨ b.toNat / 16 ≠ 3) ∧
        ThreeFieldStep s t (3#4 ++ d) [4, 5, 6]) ThreeAtEdge := by
  refine threeFields_run i (fun s => s.putUnpacked f (s.fbyte 9) (s.fbyte 11) (s.indAt 4)) _ run (fun s => ?_) (fun s n => ?_)
    fun s => ?_
  · obtain ⟨⟨d, result, checks⟩, edge⟩ := s.putUnpacked_spec f (s.fbyte 9) (s.fbyte 11) (s.indAt 4)
    refine ⟨⟨d, fun ha hb => ?_, checks⟩, edge⟩
    obtain ⟨digit, four⟩ := result ha hb
    rw [digit, four]
    have sums := value (rightDigit (s.fbyte 9)) (rightDigit (s.fbyte 11)) (s.indAt 4) (by rwa [toNat_rightDigit])
      (by rwa [toNat_rightDigit])
    rw [toNat_rightDigit, toNat_rightDigit] at sums
    exact sums
  · unfold State.putUnpacked
    dsimp only
    rw [State.fbyte_withCycles, State.fbyte_withCycles, State.bcdCheck_withCycles, State.bcdCheck_withCycles,
      show (s.withCycles n).indAt 4 = s.indAt 4 from rfl, State.digitResult_withCycles]
    rfl
  · unfold State.putUnpacked
    obtain ⟨⟨x, drawn⟩, -⟩ := ((s.bcdCheck false (s.fbyte 9)).bcdCheck false (s.fbyte 11)).digitResult_spec f
      (rightDigit (s.fbyte 9)) (rightDigit (s.fbyte 11)) (s.indAt 4)
    dsimp only
    rw [drawn]
    rfl

/-- Settles O32: each instruction is the run of its decimal sum or difference. -/
theorem decimalFieldSums : Obligations.DecimalFieldSums := by
  refine ⟨⟨packed_run .apdf padd (fun a b c => ((a + b + c : Nat) : Int)) (fun a b c => 100 ≤ a + b + c) (fun _ => rfl)
      fun a b c ha hb => ?_,
    packed_run .spdf psub (fun a b c => (a : Int) - b - (1 - c : Nat)) (fun a b c => b + (1 - c) ≤ a)
      (fun _ => rfl) fun a b c ha hb => ?_⟩,
    unpacked_run .audf dadd (fun a b c => ((a + b + c : Nat) : Int)) (fun a b c => 10 ≤ a + b + c) (fun _ => rfl) fun x y c hx hy => ?_,
    unpacked_run .sudf dsub (fun a b c => (a : Int) - b - (1 - c : Nat)) (fun a b c => b + (1 - c) ≤ a)
      (fun _ => rfl) fun x y c hx hy => ?_⟩
  · obtain ⟨packed, sum⟩ := padd_spec c ha hb
    have lt := bcdValue_lt packed
    refine ⟨packed, by omega, ?_⟩
    rw [← Bool.toNat_eq_one]
    have := (padd a b c).2.toNat_le
    omega
  · obtain ⟨packed, sum⟩ := psub_spec c ha hb
    have lt := bcdValue_lt packed
    refine ⟨packed, by omega, ?_⟩
    rw [← Bool.toNat_eq_one]
    have := (psub a b c).2.toNat_le
    omega
  · obtain ⟨digit, sum⟩ := dadd_spec c hx hy
    refine ⟨by omega, ?_⟩
    rw [← Bool.toNat_eq_one]
    have := (dadd x y c).2.toNat_le
    omega
  · obtain ⟨digit, sum⟩ := dsub_spec c hx hy
    refine ⟨by omega, ?_⟩
    rw [← Bool.toNat_eq_one]
    have := (dsub x y c).2.toNat_le
    omega

/-! ### Compares -/

/-- The checks and the order of two field bytes, nothing else. -/
theorem State.compareFields_spec (s : State) :
    OrderOf s.compareFields ((s.fbyte 9).toNat < (s.fbyte 11).toNat) (s.fbyte 9 = s.fbyte 11)
      ((s.fbyte 11).toNat < (s.fbyte 9).toNat) ∧ ChecksBytes s s.compareFields [s.fbyte 9, s.fbyte 11] ∧
    KeepsInd s s.compareFields [1, 2, 3, 5, 6] ∧ OnlyIndicators s s.compareFields := by
  unfold State.compareFields
  obtain ⟨checks, -, ind, -⟩ := s.checkTwo_spec (s.fbyte 9) (s.fbyte 11)
  have only := (s.bcdCheck_only true (s.fbyte 9)).trans (State.bcdCheck_only _ true (s.fbyte 11))
  generalize (s.bcdCheck true (s.fbyte 9)).bcdCheck true (s.fbyte 11) = u at *
  have others : KeepsInd u (u.orderUnsigned (s.fbyte 9) (s.fbyte 11)) [1, 2, 3] := (u.frame_setOrder _ _ _).2.1
  refine ⟨u.orderOf_orderUnsigned _ _, checks.of_kept (others 5 (by decide) (by decide) (by decide))
    (others 6 (by decide) (by decide) (by decide)), fun n h1 h8 hn => ?_, only.trans (v := u.orderUnsigned _ _) rfl⟩
  simp only [List.mem_cons, List.not_mem_nil, or_false, not_or] at hn
  rw [others n h1 h8 (by simp [hn]), ind n h1 h8 (by simp [hn])]

/-- A compare from `s` has moved the units `units`; it had written the indicators of `u`. -/
structure Compared (s u v : State) (units : List RsuNum) (mismatch : Bool) : Prop where
  moves : MovesPointers s v units [] false
  flags : mismatch = false → RaisesFlags s v units false
  noFlags : mismatch = true → RaisesFlags s v [] false
  tally : v.cpc.tally = s.cpc.tally
  tags : v.cpc.m6wt = s.cpc.m6wt
  outside : KeepsOutsideFields s v
  ind : ∀ n, v.indAt n = u.indAt n

/-- Before the pointers move. -/
theorem OnlyIndicators.compared {s u : State} (h : OnlyIndicators s u) (mismatch : Bool) : Compared s u u [] mismatch := by
  obtain ⟨outside, regs, tags, sr, tally⟩ := h.kept
  exact ⟨movesPointers_none false fun r _ => State.rsu_of_cpc regs r, fun _ => .none false sr, fun _ => .none false sr, tally, tags,
    outside, fun _ => rfl⟩

/-- One unit more moves; after a mismatch its crossing is ignored. -/
theorem Compared.move {s u v : State} {units : List RsuNum} {mismatch : Bool} (h : Compared s u v units mismatch) {k : RsuNum}
    (hk : IsMars k) (new : evenOf k ∉ units.map evenOf ++ []) :
    Compared s u (v.compareMove k mismatch) (units ++ [k]) mismatch := by
  cases mismatch
  · rw [show v.compareMove k false = v.stepUnit k false from rfl]
    exact ⟨h.moves.move new (v.rsu_stepUnit k false), fun _ => (h.flags rfl).stepUnit hk (h.moves.2 _ new), fun q => absurd q (by decide),
      (v.stepUnit_tally k false).trans h.tally, (v.stepUnit_m6wt k false).trans h.tags, State.outside_stepUnit k false h.outside,
      fun n => (v.indAt_stepUnit k false n).trans (h.ind n)⟩
  · rw [show v.compareMove k true = v.movePointer k false from rfl]
    exact ⟨h.moves.move new (v.rsu_movePointer k false), fun q => absurd q (by decide), fun _ => h.noFlags rfl, h.tally, h.tags,
      h.outside, h.ind⟩

/-- A move of a compare does not depend on the cycles left, nor does it touch the pipeline. -/
theorem State.compareMove_withCycles (s : State) (n : Nat) (k : RsuNum) (mismatch : Bool) :
    (s.withCycles n).compareMove k mismatch = (s.compareMove k mismatch).withCycles n := by
  cases mismatch
  · exact s.stepUnit_withCycles n k false
  · rfl
theorem State.compareMove_pipe (s : State) (k : RsuNum) (mismatch : Bool) : (s.compareMove k mismatch).pipe = s.pipe := by
  cases mismatch
  · exact s.stepUnit_pipe k false
  · rfl

/-- The checks and the order do not depend on the cycles left, nor do they touch the pipeline. -/
theorem State.compareFields_withCycles (s : State) (n : Nat) : (s.withCycles n).compareFields = s.compareFields.withCycles n := by
  unfold State.compareFields
  rw [State.fbyte_withCycles, State.fbyte_withCycles, State.bcdCheck_withCycles, State.bcdCheck_withCycles]
  rfl
theorem State.compareFields_pipe (s : State) : s.compareFields.pipe = s.pipe := by
  unfold State.compareFields
  rw [show ∀ (u : State) (a b : Byte), (u.orderUnsigned a b).pipe = u.pipe from fun _ _ _ => rfl, State.bcdCheck_pipe,
    State.bcdCheck_pipe]

/-- What a byte step of a compare over `units` does (44 R527, R538). -/
def ComparesByte (units : List RsuNum) (s t : State) : Prop :=
  let a := byteOf (s.rsu 9) (s.pointer 8)
  let b := byteOf (s.rsu 11) (s.pointer 10)
  OrderOf t (a.toNat < b.toNat) (a = b) (b.toNat < a.toNat) ∧ ChecksBytes s t [a, b] ∧ KeepsInd s t [1, 2, 3, 5, 6] ∧
    MovesPointers s t units [] false ∧ (a = b → StepsFlags s t units false) ∧ (a ≠ b → StepsFlags s t [] false) ∧
    t.cpc.tally = s.cpc.tally - 1 ∧ t.cpc.m6wt = s.cpc.m6wt ∧ KeepsOutsideFields s t

/-- The end of a compare's byte step. -/
theorem State.compare_ends {s v : State} {units : List RsuNum}
    (h : Compared s s.compareFields v units (s.fbyte 9 != s.fbyte 11)) : ComparesByte units s (v.countByte false) := by
  obtain ⟨⟨lt, eq, gt⟩, checks, ind, -⟩ := s.compareFields_spec
  have kept : ∀ n, (v.countByte false).indAt n = s.compareFields.indAt n := h.ind
  have differ : (s.fbyte 9 != s.fbyte 11) = true ↔ s.fbyte 9 ≠ s.fbyte 11 := bne_iff_ne
  refine ⟨⟨by rw [kept]; exact lt, by rw [kept]; exact eq, by rw [kept]; exact gt⟩, checks.of_kept (kept 5) (kept 6),
    fun n h1 h8 hn => (kept n).trans (ind n h1 h8 hn), h.moves, fun same => ?_, fun other => ?_, congrArg (· - 1) h.tally, h.tags,
    h.outside⟩
  · exact (h.flags (Bool.eq_false_iff.mpr fun q => differ.mp q same)).countByte
  · exact (h.noFlags (differ.mpr other)).countByte

/-- Settles O33: CFU moves both units, CBFU that of MARS5 alone. -/
theorem fieldOrders : Obligations.FieldOrders := by
  have nine : IsMars 9 := .inl rfl
  have eleven : IsMars 11 := .inr (.inl rfl)
  have start : ∀ s : State, Compared s s.compareFields s.compareFields [] (s.fbyte 9 != s.fbyte 11) := fun s =>
    s.compareFields_spec.2.2.2.compared _
  constructor
  · refine State.runsBytes .cfu cfuStep _ _ (fun _ => rfl) (fun s => ?_) (fun s => ?_) (fun s n => ?_) fun s => ?_
    · exact State.compare_ends (((start s).move nine (by decide)).move eleven (by decide))
    · show ((s.fbyte 9 != s.fbyte 11) || s.crosses 9 false || s.crosses 11 false) = true ↔ _
      simp only [Bool.or_eq_true, bne_iff_ne, State.crosses_iff, List.mem_cons, List.not_mem_nil, or_false, exists_eq_or_imp,
        exists_eq_left, or_assoc]
      rfl
    · unfold cfuStep
      dsimp only
      rw [State.fbyte_withCycles, State.fbyte_withCycles, State.compareFields_withCycles, State.compareMove_withCycles,
        State.compareMove_withCycles, State.countByte_withCycles, State.crosses_withCycles, State.crosses_withCycles]
    · unfold cfuStep
      dsimp only
      rw [State.countByte_pipe, State.compareMove_pipe, State.compareMove_pipe, State.compareFields_pipe]
  · refine State.runsBytes .cbfu cbfuStep _ _ (fun _ => rfl) (fun s => ?_) (fun s => ?_) (fun s n => ?_) fun s => ?_
    · exact State.compare_ends ((start s).move eleven (by decide))
    · show ((s.fbyte 9 != s.fbyte 11) || s.crosses 11 false) = true ↔ _
      simp only [Bool.or_eq_true, bne_iff_ne, State.crosses_iff, List.mem_cons, List.not_mem_nil, or_false, exists_eq_left]
      rfl
    · unfold cbfuStep
      dsimp only
      rw [State.fbyte_withCycles, State.fbyte_withCycles, State.compareFields_withCycles, State.compareMove_withCycles,
        State.countByte_withCycles, State.crosses_withCycles]
    · unfold cbfuStep
      dsimp only
      rw [State.countByte_pipe, State.compareMove_pipe, State.compareFields_pipe]

end Sys2Proof.Machine
end

section
/-! Four byte steps of AF over whole words (44 R525). -/

namespace Sys2Proof.Machine

/-- What keeps everything outside the fields, twice. -/
theorem KeepsOutsideFields.trans {s t u : State} (h : KeepsOutsideFields s t) (g : KeepsOutsideFields t u) :
    KeepsOutsideFields s u := by
  unfold KeepsOutsideFields at *
  rw [← h, ← g]

/-- The byte at the pointer `i` places left of the last byte of the word. -/
theorem toNat_byteOf_left (w : Word) {i : Nat} (h : i < 4) :
    (byteOf w (BitVec.ofNat 2 (7 - i))).toNat = w.toNat / 256 ^ i % 256 := by
  have e : ∀ start, (w.extractLsb' start 8).toNat = w.toNat / 2 ^ start % 2 ^ 8 := fun start => toNat_part w start 8
  interval_cases i
  · exact (e 0).trans (by norm_num)
  · exact (e 8).trans (by norm_num)
  · exact (e 16).trans (by norm_num)
  · exact (e 24).trans (by norm_num)

/-- A byte put there, with the bytes to its right as they were. -/
theorem toNat_putByte_left (w : Word) (v : Byte) {i : Nat} (h : i < 4) :
    (putByte w (BitVec.ofNat 2 (7 - i)) v).toNat % 256 ^ (i + 1) = w.toNat % 256 ^ i + v.toNat * 256 ^ i := by
  have hv := v.isLt
  have hw := w.isLt
  interval_cases i
  · show (w.extractLsb' 8 24 ++ v : Word).toNat % _ = _
    rw [toNat_join, toNat_part]
    omega
  · show (w.extractLsb' 16 16 ++ v ++ w.extractLsb' 0 8 : Word).toNat % _ = _
    rw [toNat_join, toNat_join, toNat_part, toNat_part]
    omega
  · show (w.extractLsb' 24 8 ++ v ++ w.extractLsb' 0 16 : Word).toNat % _ = _
    rw [toNat_join, toNat_join, toNat_part, toNat_part]
    omega
  · show (v ++ w.extractLsb' 0 24 : Word).toNat % _ = _
    rw [toNat_join, toNat_part]
    omega

/-- One byte of a sum of words: the sum of the lower parts with its carry, one byte longer. -/
theorem sumBytes_succ (a b c r c' v : Nat) {i : Nat}
    (sum : r % 256 ^ i + c' * 256 ^ i = a % 256 ^ i + b % 256 ^ i + c) (x : Nat)
    (byte : v + 256 * x = a / 256 ^ i % 256 + b / 256 ^ i % 256 + c') :
    r % 256 ^ i + v * 256 ^ i + x * 256 ^ (i + 1) = a % 256 ^ (i + 1) + b % 256 ^ (i + 1) + c := by
  have split : ∀ y : Nat, y % 256 ^ (i + 1) = y % 256 ^ i + 256 ^ i * (y / 256 ^ i % 256) := fun y => by
    rw [pow_succ]
    exact Nat.mod_mul
  rw [split a, split b, pow_succ]
  generalize 256 ^ i = p at *
  nlinarith [congrArg (· * p) byte]

/-- The state `t` after `i` byte steps of AF from the right ends of the words of `s`. -/
structure SumsBytes (s t : State) (i : Nat) : Prop where
  regs : KeepsRsu s t [8, 10, 12, 13]
  pointers : ∀ k ∈ [(8 : RsuNum), 10, 12], t.rsu k = pointedAt (s.rsu k) (BitVec.ofNat 2 (7 - i))
  sum : (t.rsu 13).toNat % 256 ^ i + carryOf t * 256 ^ i =
    (s.rsu 9).toNat % 256 ^ i + (s.rsu 11).toNat % 256 ^ i + carryOf s
  tags : ∀ n, 1 ≤ n → n ≤ 4 → bitAt t.cpc.m6wt n = (bitAt s.cpc.m6wt n || decide (n ≤ i))
  tally : t.cpc.tally.toNat + i = s.cpc.tally.toNat
  flags : ∀ n, 1 ≤ n → n ≤ 16 → (bitAt t.cpc.sr n = true ↔ bitAt s.cpc.sr n = true ∨ (1 ≤ i ∧ n = 1) ∨ (i = 4 ∧ 2 ≤ n ∧ n ≤ 4))
  ind : KeepsInd s t [4]
  outside : KeepsOutsideFields s t

/-- A word is its pointer put where it is. -/
theorem pointedAt_self {w : Word} {p : BitVec 2} (h : w.extractLsb' 0 2 = p) : pointedAt w p = w := by
  apply BitVec.eq_of_toNat_eq
  rw [pointedAt, ← h, toNat_join, toNat_part, toNat_part]
  have := w.isLt
  omega

/-- A pointer put in a word, read back or put again. -/
theorem pointedAt_pointedAt (w : Word) (p q : BitVec 2) : (pointedAt w p).extractLsb' 0 2 = p ∧
    pointedAt (pointedAt w p) q = pointedAt w q := by
  have hp := p.isLt
  have hw := w.isLt
  constructor
  · apply BitVec.eq_of_toNat_eq
    rw [toNat_part, pointedAt, toNat_join, toNat_part]
    omega
  · apply BitVec.eq_of_toNat_eq
    rw [pointedAt, pointedAt, pointedAt, toNat_join, toNat_join, toNat_part, toNat_join, toNat_part]
    omega

/-- Before the first step. -/
theorem sumsBytes_zero {s : State} (h8 : s.pointer 8 = 3#2) (h10 : s.pointer 10 = 3#2) (h12 : s.pointer 12 = 3#2) : SumsBytes s s 0 := by
  refine ⟨fun _ _ => rfl, fun k hk => ?_, by simp [Nat.mod_one], fun n h1 h4 => ?_, rfl, fun n _ _ => ?_, fun _ _ _ _ => rfl, rfl⟩
  · simp only [List.mem_cons, List.not_mem_nil, or_false] at hk
    rcases hk with rfl | rfl | rfl
    · exact (pointedAt_self h8).symm
    · exact (pointedAt_self h10).symm
    · exact (pointedAt_self h12).symm
  · rw [decide_eq_false (by omega), Bool.or_false]
  · simp

/-- A sum of two bytes with its carry (R521). -/
theorem addC_byte_carry (a b : Byte) (c : Bool) :
    (addC a b c).value.toNat + 256 * (addC a b c).carry.toNat = a.toNat + b.toNat + c.toNat := by
  have ha := a.isLt
  have hb := b.isLt
  have hc := c.toNat_le
  have carry := addC_carry a b c
  rw [addC_byte]
  cases h : (addC a b c).carry
  · rw [h] at carry
    have := mt carry.mpr (by decide)
    rw [Bool.toNat_false]
    omega
  · have := carry.mp h
    rw [Bool.toNat_true]
    omega

/-- One byte step more. -/
theorem SumsBytes.step {s t : State} {i : Nat} (h : SumsBytes s t i) (hi : i < 4) (h4 : 4 ≤ s.cpc.tally.toNat) :
    SumsBytes s (binaryStep addC t).1 (i + 1) := by
  obtain ⟨carry, ⟨⟨data, tags⟩, ⟨moves, kept⟩, flags, tally, ind, outside⟩, -⟩ :=
    t.putBinary_spec (addC (t.fbyte 9) (t.fbyte 11) (t.indAt 4))
  rw [show (t.putBinary (addC (t.fbyte 9) (t.fbyte 11) (t.indAt 4))).endThree = binaryStep addC t from rfl] at *
  generalize (binaryStep addC t).1 = u at *
  have ptr : ∀ k ∈ [(8 : RsuNum), 10, 12], t.pointer k = BitVec.ofNat 2 (7 - i) := fun k hk => by
    rw [State.pointer, h.pointers k hk]
    exact (pointedAt_pointedAt _ _ 0).1
  have ptrNat : (BitVec.ofNat 2 (7 - i)).toNat = 3 - i := by
    rw [BitVec.toNat_ofNat]
    omega
  have edge : ∀ k ∈ [(9 : RsuNum), 11, 13], (AtEdge t k true ↔ i = 3) := fun k hk => by
    have e : t.pointer (evenOf k) = BitVec.ofNat 2 (7 - i) := ptr _ (by
      revert k
      decide)
    unfold AtEdge
    rw [e, ← BitVec.toNat_inj, ptrNat]
    show 3 - i = 0 ↔ i = 3
    omega
  refine ⟨fun r hr => (kept r hr).trans (h.regs r hr), fun k hk => ?_, ?_, fun n h1 hn => ?_, ?_, fun n h1 h16 => ?_,
    fun n h1 h8 hn => (ind n h1 h8 hn).trans (h.ind n h1 h8 hn), h.outside.trans outside⟩
  · have moved : u.rsu k = movedBy (t.rsu k) (unitStep true) := by
      simp only [List.mem_cons, List.not_mem_nil, or_false] at hk
      rcases hk with rfl | rfl | rfl
      · exact moves 9 (by decide)
      · exact moves 11 (by decide)
      · exact moves 13 (by decide)
    have back : BitVec.ofNat 2 (7 - i) + unitStep true = BitVec.ofNat 2 (7 - (i + 1)) := by
      interval_cases i <;> decide
    rw [moved, movedBy, h.pointers k hk, (pointedAt_pointedAt _ _ 0).1, (pointedAt_pointedAt _ _ _).2, back]
  · have byte := addC_byte_carry (t.fbyte 9) (t.fbyte 11) (t.indAt 4)
    generalize addC (t.fbyte 9) (t.fbyte 11) (t.indAt 4) = r at *
    rw [← carry, show t.fbyte 9 = byteOf (t.rsu 9) (t.pointer 8) from rfl,
      show t.fbyte 11 = byteOf (t.rsu 11) (t.pointer 10) from rfl, ptr 8 (by decide), ptr 10 (by decide),
      h.regs 9 (by decide), h.regs 11 (by decide), toNat_byteOf_left _ hi, toNat_byteOf_left _ hi] at byte
    have next := sumBytes_succ _ _ _ _ _ _ h.sum _ byte
    rw [data, ptr 12 (by decide), toNat_putByte_left _ _ hi]
    exact next
  · rw [tags n h1 hn, h.tags n h1 hn, ptr 12 (by decide), ptrNat, Bool.or_assoc, ← Bool.decide_or]
    congr 2
    exact propext (by omega)
  · have before := h.tally
    have one : (1 : Half) ≤ t.cpc.tally := by
      show 1 ≤ t.cpc.tally.toNat
      omega
    rw [tally, BitVec.toNat_sub_of_le one]
    show t.cpc.tally.toNat - 1 + (i + 1) = _
    have : 1 ≤ t.cpc.tally.toNat := one
    omega
  · have crossed : (∃ k ∈ [(9 : RsuNum), 11, 13], n = k.toNat / 2 - 2 ∧ AtEdge t k true) ↔ i = 3 ∧ 2 ≤ n ∧ n ≤ 4 := by
      constructor
      · rintro ⟨k, hk, hn, at_⟩
        have units : ∀ k ∈ [(9 : RsuNum), 11, 13], 2 ≤ k.toNat / 2 - 2 ∧ k.toNat / 2 - 2 ≤ 4 := by decide
        exact ⟨(edge k hk).mp at_, by rw [hn]; exact units k hk⟩
      · rintro ⟨e, h2, h4⟩
        have cases : n = 2 ∨ n = 3 ∨ n = 4 := by omega
        rcases cases with rfl | rfl | rfl
        · exact ⟨9, by decide, rfl, (edge 9 (by decide)).mpr e⟩
        · exact ⟨11, by decide, rfl, (edge 11 (by decide)).mpr e⟩
        · exact ⟨13, by decide, rfl, (edge 13 (by decide)).mpr e⟩
    rw [flags n h1 h16]
    by_cases one : n = 1
    · simp [one]
    · rw [if_neg one, h.flags n h1 h16, crossed, or_assoc]
      refine or_congr_right ?_
      omega

/-- The loop goes on after a step that did not cross with bytes left, and ends after one that crossed. -/
theorem fieldLoop_succ (one : State → State × Bool) (n : Nat) (s : State) :
    ((one s).2 = false → (one s).1.cpc.tally ≠ 0#16 → fieldLoop one (n + 1) s = fieldLoop one n (one s).1) ∧
      ((one s).2 = true → fieldLoop one (n + 1) s = (one s).1) := by
  constructor
  · intro crossed tally
    show (if (one s).2 || (one s).1.cpc.tally == 0#16 then (one s).1 else fieldLoop one n (one s).1) = _
    rw [crossed, Bool.false_or, if_neg fun e => tally (beq_iff_eq.mp e)]
  · intro crossed
    show (if (one s).2 || (one s).1.cpc.tally == 0#16 then (one s).1 else fieldLoop one n (one s).1) = _
    rw [crossed, Bool.true_or, if_pos rfl]

/-- The byte step crosses the edge of the words exactly in the fourth. -/
theorem SumsBytes.crosses {s t : State} {i : Nat} (h : SumsBytes s t i) (hi : i < 4) : (binaryStep addC t).2 = true ↔ i = 3 := by
  obtain ⟨-, -, edge⟩ := t.putBinary_spec (addC (t.fbyte 9) (t.fbyte 11) (t.indAt 4))
  have at_ : ∀ k ∈ [(8 : RsuNum), 10, 12], (t.pointer k = 0#2 ↔ i = 3) := fun k hk => by
    rw [State.pointer, h.pointers k hk, (pointedAt_pointedAt _ _ 0).1, ← BitVec.toNat_inj, BitVec.toNat_ofNat]
    show (7 - i) % 4 = 0 ↔ i = 3
    omega
  have three : ThreeAtEdge t ↔ i = 3 := by
    show t.pointer 8 = 0#2 ∨ t.pointer 10 = 0#2 ∨ t.pointer 12 = 0#2 ↔ i = 3
    rw [at_ 8 (by decide), at_ 10 (by decide), at_ 12 (by decide), or_self, or_self]
  exact edge.trans three

/-- Four byte steps of AF, and no more. -/
theorem exec_af_four {s : State} (h : SumsBytes s s 0) (h4 : 4 ≤ s.cpc.tally.toNat) (cycles : 4 ≤ s.pipe.fieldCycles) :
    ∃ t, exec .af s = .next t ∧ SumsBytes s t 4 := by
  obtain ⟨n, hn⟩ : ∃ n, s.pipe.fieldCycles = n + 4 := ⟨s.pipe.fieldCycles - 4, by omega⟩
  have goes : ∀ {t : State} {i : Nat} (m : Nat), SumsBytes s t i → i < 3 →
      fieldLoop (binaryStep addC) (m + 1) t = fieldLoop (binaryStep addC) m (binaryStep addC t).1 := fun {t i} m ht hi => by
    have left := (ht.step (by omega) h4).tally
    refine (fieldLoop_succ (binaryStep addC) m t).1 (Bool.eq_false_iff.mpr fun q => ?_) fun q => ?_
    · have := (ht.crosses (by omega)).mp q
      omega
    · rw [q] at left
      simp at left
      omega
  have one := h.step (by decide) h4
  have two := one.step (by decide) h4
  have three := two.step (by decide) h4
  have four := three.step (by decide) h4
  have ends := (fieldLoop_succ (binaryStep addC) n _).2 ((three.crosses (by decide)).mpr rfl)
  refine ⟨_, ?_, four⟩
  have some : s.cpc.tally ≠ 0#16 := fun q => by
    rw [q] at h4
    exact absurd h4 (by decide)
  show Host.Outcome.next (s.unlessVoid fun s => fieldLoop (binaryStep addC) s.pipe.fieldCycles s) = _
  rw [(s.unlessVoid_cases _).2 some, hn, goes _ h (by decide), goes _ one (by decide), goes _ two (by decide), ends]

/-- Vectors with the same bits are equal. -/
theorem eq_of_bitAt {w : Nat} {x y : BitVec w} (h : ∀ n, 1 ≤ n → n ≤ w → bitAt x n = bitAt y n) : x = y :=
  BitVec.eq_of_getLsbD_eq fun i hi => h (i + 1) (Nat.succ_pos i) hi

/-- Settles O31: after the fourth step the lower four bytes are the whole words. -/
theorem wholeWordFieldSum : Obligations.WholeWordFieldSum := by
  intro s h8 h10 h12 tally cycles
  obtain ⟨t, run, done⟩ := exec_af_four (sumsBytes_zero h8 h10 h12) tally cycles
  have sum := done.sum
  have carry := (t.indAt 4).toNat_le
  have ht := (t.rsu 13).isLt
  have h9 := (s.rsu 9).isLt
  have h11 := (s.rsu 11).isLt
  have left := done.tally
  unfold carryOf at sum
  refine ⟨t, run, ?_, ?_, ?_, ?_, ?_, fun r hr => ?_, done.ind, done.outside⟩
  · unfold carryOf
    omega
  · rw [← Bool.toNat_eq_one]
    unfold carryOf
    omega
  · refine eq_of_bitAt fun n h1 h4 => ?_
    rw [done.tags n h1 h4, decide_eq_true h4, Bool.or_true]
    interval_cases n <;> rfl
  · omega
  · refine eq_of_bitAt fun n h1 h16 => Bool.eq_iff_iff.mpr ?_
    have low : bitAt 0b01111#16 n = true ↔ n ≤ 4 := by
      interval_cases n <;> decide
    rw [done.flags n h1 h16, bitAt_or, Bool.or_eq_true, low]
    refine or_congr_right ?_
    omega
  · by_cases pointer : r ∈ [(8 : RsuNum), 10, 12]
    · rw [done.pointers r pointer]
      simp only [List.mem_cons, List.not_mem_nil, or_false] at pointer
      rcases pointer with rfl | rfl | rfl
      · exact pointedAt_self h8
      · exact pointedAt_self h10
      · exact pointedAt_self h12
    · refine done.regs r fun q => ?_
      simp only [List.mem_cons, List.not_mem_nil, or_false] at q pointer hr
      tauto

end Sys2Proof.Machine
end

section
/-! The internal registers (10, 41). -/

namespace Sys2Proof.Machine

/-! ### One register -/

/-- The halfword of `d` that register `n` uses, replaced (10 R52). -/
def iruPut (n : BitVec 5) (d : Word) (h : Half) : Word := if n.toNat < 16 then withRight d h else withLeft d h

/-- The halves of a word with one half replaced. -/
theorem halves_with (d : Word) (h : Half) : (rightHalf (withRight d h) = h ∧ leftHalf (withRight d h) = leftHalf d) ∧
    leftHalf (withLeft d h) = h ∧ rightHalf (withLeft d h) = rightHalf d := by
  have hh := h.isLt
  have hd := d.isLt
  refine ⟨⟨BitVec.eq_of_toNat_eq ?_, BitVec.eq_of_toNat_eq ?_⟩, BitVec.eq_of_toNat_eq ?_, BitVec.eq_of_toNat_eq ?_⟩
  · rw [rightHalf, toNat_part, toNat_withRight]
    omega
  · rw [leftHalf, leftHalf, toNat_part, toNat_part, toNat_withRight]
    omega
  · rw [leftHalf, toNat_part, toNat_withLeft]
    omega
  · rw [rightHalf, rightHalf, toNat_part, toNat_part, toNat_withLeft]
    omega

/-- A halfword put, read back; the other half stays. -/
theorem iruPut_halves (n : BitVec 5) (d : Word) (h : Half) :
    iruHalf n (iruPut n d h) = h ∧ otherHalf n (iruPut n d h) = otherHalf n d := by
  obtain ⟨right, left⟩ := halves_with d h
  unfold iruHalf iruPut otherHalf
  split
  · exact right
  · exact left

/-- The plain registers that are no jump register (10 R51). -/
def plainIrus : List (BitVec 5) := [9, 10, 11, 12, 17, 18, 19, 20, 24, 26, 27, 28]

/-- A plain register is a jump register or one of the list. -/
theorem plainIru_cases {n : BitVec 5} (h : isPlainIru n = true) : n.toNat < 8 ∨ n ∈ plainIrus := by
  revert n
  decide

/-- What TII reads in the registers of the list, in their order. -/
def State.iruCells (s : State) : List Half :=
  [s.cpc.sr, s.cpc.sur3, s.cpc.sur4, s.cpc.tally, s.cpc.via, 0#8 ++ s.cpc.sur5, s.cpc.sur1, s.cpc.sur2, s.cpc.optr1 ++ s.cpc.optr2,
    0#11 ++ s.cpc.sptr, s.cpc.ca1 ++ 0#8, 0#12 ++ s.cpc.m6wt]

/-- TII from a register of the list. -/
theorem State.iruRead_listed (s : State) {n : BitVec 5} (h : n ∈ plainIrus) (d : Word) :
    s.iruRead n d = s.iruCells[plainIrus.idxOf n]?.map (iruPut n d) := by
  simp only [plainIrus, List.mem_cons, List.not_mem_nil, or_false] at h
  rcases h with rfl | rfl | rfl | rfl | rfl | rfl | rfl | rfl | rfl | rfl | rfl | rfl <;> rfl

/-- A jump register depends on the jump registers alone. -/
theorem jr_of_cpc {s t : State} (h : t.cpc.jr = s.cpc.jr) (r : JrNum) : t.jr r = s.jr r := by
  unfold State.jr
  rw [h]

/-- TII from a jump register. -/
theorem State.iruRead_jr (s : State) {n : BitVec 5} (h : n.toNat < 8) (d : Word) :
    s.iruRead n d = some (iruPut n d (s.jr (n.extractLsb' 0 3))) := by
  have low : ∀ n : BitVec 5, n.toNat < 8 → n ∈ [0#5, 1, 2, 3, 4, 5, 6, 7] := by decide
  have hn := low n h
  simp only [List.mem_cons, List.not_mem_nil, or_false] at hn
  rcases hn with rfl | rfl | rfl | rfl | rfl | rfl | rfl | rfl <;> rfl

/-- The halfword that TOI leaves in a register of the list. -/
def iruStored (n : BitVec 5) (v : Word) : Half :=
  match n.toNat with
  | 9 => putBit (rightHalf v) 6 false
  | 18 => 0#8 ++ v.extractLsb' 16 8
  | 24 => v.extractLsb' 24 8 ++ v.extractLsb' 16 8
  | 26 => 0#11 ++ v.extractLsb' 16 5
  | 27 => v.extractLsb' 24 8 ++ 0#8
  | 28 => 0#12 ++ v.extractLsb' 16 4
  | _ => iruHalf n v

/-- The left half of a word in two parts. -/
theorem leftHalf_parts (v : Word) : leftHalf v = v.extractLsb' 24 8 ++ v.extractLsb' 16 8 ∧
    leftHalf v = v.extractLsb' 21 11 ++ v.extractLsb' 16 5 ∧ leftHalf v = v.extractLsb' 20 12 ++ v.extractLsb' 16 4 := by
  have hv := v.isLt
  refine ⟨BitVec.eq_of_toNat_eq ?_, BitVec.eq_of_toNat_eq ?_, BitVec.eq_of_toNat_eq ?_⟩ <;>
    rw [leftHalf, toNat_join, toNat_part, toNat_part, toNat_part] <;> omega

/-- A mask of one part of a vector keeps that part. -/
theorem append_and_masks {n m : Nat} (a : BitVec n) (b : BitVec m) :
    (a ++ b) &&& (0#n ++ BitVec.allOnes m) = 0#n ++ b ∧ (a ++ b) &&& (BitVec.allOnes n ++ 0#m) = a ++ 0#m := by
  constructor
  · rw [BitVec.and_append, BitVec.and_zero, BitVec.and_allOnes]
  · rw [BitVec.and_append, BitVec.and_zero, BitVec.and_allOnes]

/-- It is the bits that the register has. -/
theorem iruStored_eq {n : BitVec 5} (h : n ∈ plainIrus) (v : Word) : iruStored n v = iruHalf n v &&& iruMask n := by
  have all : ∀ x : Half, x = x &&& 0xFFFF#16 := fun x => (BitVec.and_allOnes (x := x)).symm
  obtain ⟨bytes, five, four⟩ := leftHalf_parts v
  simp only [plainIrus, List.mem_cons, List.not_mem_nil, or_false] at h
  rcases h with rfl | rfl | rfl | rfl | rfl | rfl | rfl | rfl | rfl | rfl | rfl | rfl
  · rfl
  · exact all _
  · exact all _
  · exact all _
  · exact all _
  · exact (append_and_masks _ _).1.symm.trans (congrArg (· &&& 0x00FF#16) bytes.symm)
  · exact all _
  · exact all _
  · exact bytes.symm.trans (all _)
  · exact (append_and_masks _ _).1.symm.trans (congrArg (· &&& 0x001F#16) five.symm)
  · exact (append_and_masks _ _).2.symm.trans (congrArg (· &&& 0xFF00#16) bytes.symm)
  · exact (append_and_masks _ _).1.symm.trans (congrArg (· &&& 0x000F#16) four.symm)

/-- A TOI to a register of the list writes its cell and nothing else. -/
theorem State.iruWrite_listed (s : State) {n : BitVec 5} (h : n ∈ plainIrus) (v : Word) :
    ∃ t, s.iruWrite n v = some t ∧ t.iruCells = s.iruCells.set (plainIrus.idxOf n) (iruStored n v) ∧ t.cpc.jr = s.cpc.jr ∧
      t.cpc.rsu = s.cpc.rsu ∧ (t.cpc.eari = s.cpc.eari ∧ t.cpc.iari = s.cpc.iari ∧ t.cpc.cri = s.cpc.cri ∧
      t.cpc.fifoRun = s.cpc.fifoRun) ∧ t.cpc.ind = s.cpc.ind ∧ t.mem = s.mem ∧ t.atc = s.atc ∧ t.pipe = s.pipe := by
  simp only [plainIrus, List.mem_cons, List.not_mem_nil, or_false] at h
  rcases h with rfl | rfl | rfl | rfl | rfl | rfl | rfl | rfl | rfl | rfl | rfl | rfl <;>
    exact ⟨_, rfl, rfl, rfl, rfl, ⟨rfl, rfl, rfl, rfl⟩, rfl, rfl, rfl, rfl⟩

/-- A TOI to the plain register `n` wrote `h`: TII reads it there; the other plain registers, the Restore FIFO, the general registers,
I1 to I7, the pipeline, memory and the ATC are as before. -/
structure WritesIru (s t : State) (n : BitVec 5) (h : Half) : Prop where
  value : ∀ d, t.iruRead n d = some (iruPut n d h)
  others : ∀ r d, isPlainIru r = true → r ≠ n → t.iruRead r d = s.iruRead r d
  rsu : t.cpc.rsu = s.cpc.rsu
  fifo : t.cpc.eari = s.cpc.eari ∧ t.cpc.iari = s.cpc.iari ∧ t.cpc.cri = s.cpc.cri ∧ t.cpc.fifoRun = s.cpc.fifoRun
  ind : t.cpc.ind = s.cpc.ind
  mem : t.mem = s.mem
  atc : t.atc = s.atc
  pipe : t.pipe = s.pipe

/-- The registers of the list are no jump registers, and no two share a cell. -/
theorem plainIrus_apart : (∀ n ∈ plainIrus, ¬n.toNat < 8) ∧ (∀ n ∈ plainIrus, plainIrus.idxOf n < 12) ∧
    ∀ n ∈ plainIrus, ∀ r ∈ plainIrus, r ≠ n → plainIrus.idxOf n ≠ plainIrus.idxOf r := by
  decide

/-- A write of a register of the list. -/
theorem writesIru_listed (s : State) {n : BitVec 5} (h : n ∈ plainIrus) (v : Word) :
    ∃ t, s.iruWrite n v = some t ∧ WritesIru s t n (iruHalf n v &&& iruMask n) := by
  obtain ⟨t, run, cells, jr, rsu, fifo, ind, mem, atc, pipe⟩ := s.iruWrite_listed h v
  obtain ⟨notJump, inside, apart⟩ := plainIrus_apart
  refine ⟨t, run, fun d => ?_, fun r d hr hn => ?_, rsu, fifo, ind, mem, atc, pipe⟩
  · rw [t.iruRead_listed h, cells, List.getElem?_set_self (inside n h), iruStored_eq h]
    rfl
  · rcases plainIru_cases hr with low | listed
    · rw [t.iruRead_jr low, s.iruRead_jr low, show t.jr _ = s.jr _ from jr_of_cpc jr _]
    · rw [t.iruRead_listed listed, s.iruRead_listed listed, cells, List.getElem?_set_ne (apart n h r listed hn)]

/-- A write of a jump register. -/
theorem writesIru_jr (s : State) {n : BitVec 5} (h : n.toNat < 8) (v : Word) :
    ∃ t, s.iruWrite n v = some t ∧ WritesIru s t n (iruHalf n v &&& iruMask n) := by
  have low : ∀ n : BitVec 5, n.toNat < 8 → n ∈ [0#5, 1, 2, 3, 4, 5, 6, 7] := by decide
  have run : s.iruWrite n v = some (s.setJr (n.extractLsb' 0 3) (rightHalf v)) := by
    have hn := low n h
    simp only [List.mem_cons, List.not_mem_nil, or_false] at hn
    rcases hn with rfl | rfl | rfl | rfl | rfl | rfl | rfl | rfl <;> rfl
  have half : iruHalf n v &&& iruMask n = rightHalf v := by
    have mask : ∀ n : BitVec 5, n.toNat < 8 → iruMask n = BitVec.allOnes 16 := by decide
    rw [mask n h, BitVec.and_allOnes, iruHalf, if_pos (by omega)]
  have number : ∀ n r : BitVec 5, n.toNat < 8 → r.toNat < 8 → r ≠ n → ¬n.extractLsb' 0 3 = r.extractLsb' 0 3 := by decide
  refine ⟨_, run, fun d => ?_, fun r d hr hn => ?_, rfl, ⟨rfl, rfl, rfl, rfl⟩, rfl, rfl, rfl, rfl⟩
  · rw [State.iruRead_jr _ h, State.jr_setJr, if_pos rfl, half]
  · rcases plainIru_cases hr with small | listed
    · rw [State.iruRead_jr _ small, State.iruRead_jr _ small, State.jr_setJr, if_neg (number n r h small hn)]
    · rw [State.iruRead_listed _ listed, State.iruRead_listed _ listed]
      rfl

/-- A write of a plain register. -/
theorem writesIru_plain (s : State) {n : BitVec 5} (h : isPlainIru n = true) (v : Word) :
    ∃ t, s.iruWrite n v = some t ∧ WritesIru s t n (iruHalf n v &&& iruMask n) := by
  rcases plainIru_cases h with low | listed
  · exact writesIru_jr s low v
  · exact writesIru_listed s listed v

/-! ### The instructions -/

/-- TII from a register other than the Restore FIFO. -/
theorem exec_tii {n : BitVec 5} (k : RsuNum) {s : State} {w : Word} (h : n ≠ 8#5) (read : s.iruRead n (s.rsu k) = some w) :
    exec (.tii n k) s = .next (s.setRsu k w) := by
  show execTii n k s = _
  unfold execTii
  rw [read]
  show Host.Outcome.next ((if n = 8#5 then s.fifoRotate else s).setRsu k w) = _
  rw [if_neg h]

/-- TOI to a register that is there. -/
theorem exec_toi {n : BitVec 5} (k : RsuNum) {s t : State} (write : s.iruWrite n (s.rsu k) = some t) :
    exec (.toi n k) s = .next t := by
  show execToi n k s = _
  unfold execToi
  rw [write]

/-- TOI 16 writes I6 to I1 and keeps I7 (R58). -/
theorem State.writeIndicators_spec (s : State) (v : Word) :
    let t := s.setInd (s.cpc.ind.extractLsb' 6 1 ++ v.extractLsb' 16 6)
    (∀ n, 1 ≤ n → n ≤ 6 → t.indAt n = bitAt (leftHalf v) n) ∧ Frame s t [] [1, 2, 3, 4, 5, 6] := by
  intro t
  have low : ∀ n, 1 ≤ n → n ≤ 6 → t.indAt n = bitAt (leftHalf v) n := fun n h1 h6 => by
    rw [t.indAt_of_le_seven h1 (by omega)]
    refine (bitAt_append _ _ h1 h6).trans ?_
    unfold bitAt leftHalf
    rw [BitVec.getLsbD_extractLsb', BitVec.getLsbD_extractLsb', decide_eq_true (show n - 1 < 6 by omega),
      decide_eq_true (show n - 1 < 16 by omega)]
  refine ⟨low, fun _ _ => rfl, fun n h1 h8 hn => ?_, fun _ => rfl, rfl, rfl, rfl, rfl, rfl, rfl, rfl, rfl⟩
  have h : n = 7 ∨ n = 8 := by
    simp only [List.mem_cons, List.not_mem_nil, or_false] at hn
    omega
  rcases h with rfl | rfl
  · rw [t.indAt_of_le_seven h1 (by decide), s.indAt_of_le_seven h1 (by decide)]
    show bitAt (s.cpc.ind.extractLsb' 6 1 ++ v.extractLsb' 16 6) 7 = _
    unfold bitAt
    rw [BitVec.getLsbD_append, if_neg (by decide), BitVec.getLsbD_extractLsb']
    rfl
  · rw [State.indAt_eight, State.indAt_eight]
    rfl

/-- A Restore FIFO that the instruction moved is not clocked (R55). -/
theorem State.fifoClock_of_moved {s : State} (h : s.pipe.fifoShifted = true) : s.fifoClock = s := by
  unfold State.fifoClock
  rw [h, Bool.not_true, Bool.and_false]
  exact if_neg Bool.false_ne_true

/-- The registers that are not there (R51). -/
theorem exec_missing_iru {n : BitVec 5} (h : isIru n = false) (k : RsuNum) (s : State) :
    exec (.tii n k) s = .refused (.unusedIru n) ∧ exec (.toi n k) s = .refused (.unusedIru n) := by
  have missing : ∀ n : BitVec 5, isIru n = false → n ∈ [13#5, 14, 15, 21, 22, 23, 25, 29, 30, 31] := by decide
  have hn := missing n h
  simp only [List.mem_cons, List.not_mem_nil, or_false] at hn
  rcases hn with rfl | rfl | rfl | rfl | rfl | rfl | rfl | rfl | rfl | rfl <;> exact ⟨rfl, rfl⟩

/-- Settles O12: a plain register by its cell, the two others and the missing ones each by itself. -/
theorem internalRegisters : Obligations.InternalRegisters := by
  refine ⟨fun n k m s plain => ?_, fun k s => ⟨?_, ?_⟩, fun k s => ⟨?_, ?_⟩, fun n k s missing => ?_⟩
  · obtain ⟨t, write, w⟩ := writesIru_plain s plain (s.rsu k)
    obtain ⟨eari, iari, cri, fifo⟩ := w.fifo
    obtain ⟨half, other⟩ := iruPut_halves n (t.rsu m) (iruHalf n (s.rsu k) &&& iruMask n)
    have notFifo : n ≠ 8#5 := fun e => absurd (e ▸ plain) (by decide)
    refine ⟨t, exec_toi k write, State.rsu_of_cpc w.rsu, w.mem, w.atc, w.pipe, w.others, fun i h1 h7 => ?_, eari, iari, cri, fifo,
      _, exec_tii m notFifo (w.value _), ?_, ?_, t.frame_setRsu m _⟩
    · rw [t.indAt_of_le_seven h1 h7, s.indAt_of_le_seven h1 h7, w.ind]
    · rw [State.rsu_setRsu_same]
      exact half
    · rw [State.rsu_setRsu_same, other, State.rsu_of_cpc w.rsu]
  · obtain ⟨-, left, right⟩ := halves_with (s.rsu k) (0#8 ++ s.indicators)
    refine ⟨_, exec_tii k (by decide) rfl, fun n h1 h8 => ?_, ?_, ?_, s.frame_setRsu k _⟩
    · rw [State.rsu_setRsu_same, left, bitAt_append _ _ h1 h8]
      rfl
    · rw [State.rsu_setRsu_same, left, toNat_join]
      have := s.indicators.isLt
      show 0 * 2 ^ 8 + _ < 256
      omega
    · rw [State.rsu_setRsu_same, right]
  · obtain ⟨low, frame⟩ := s.writeIndicators_spec (s.rsu k)
    exact ⟨_, rfl, low, frame⟩
  · obtain ⟨⟨right, left⟩, -⟩ := halves_with (s.rsu k) s.cpc.eari
    refine ⟨s.fifoRotate.setRsu k (withRight (s.rsu k) s.cpc.eari), rfl, ?_, ?_, fun r hr => ?_, rfl, rfl, rfl, rfl, rfl, rfl,
      State.fifoClock_of_moved rfl⟩
    · rw [State.rsu_setRsu_same, right]
    · rw [State.rsu_setRsu_same, left]
    · rw [State.rsu_setRsu, if_neg fun e => hr (by simp [e])]
      rfl
  · exact ⟨s.fifoPush (rightHalf (s.rsu k)), rfl, fun _ => rfl, rfl, rfl, rfl, rfl, rfl, rfl, State.fifoClock_of_moved rfl⟩
  · exact exec_missing_iru missing k s

end Sys2Proof.Machine
end

section
/-! The end of a cycle: X1, the ordinary move of the pipeline, entries and what is recognised (10, 60). -/

namespace Sys2Proof.Machine

/-! ### X1 -/

/-- X1 writes I6 and I7, the match that was due, and the ATC. -/
theorem State.x1_frame (s : State) : s.x1.pipe = { s.pipe with dueMatch := none } ∧ { s.x1.cpc with ind := s.cpc.ind } = s.cpc ∧
    s.x1.mem = s.mem ∧ s.x1.plat = s.plat ∧ s.x1.bkpt = s.bkpt ∧ s.x1.now = s.now ∧ s.x1.atc = s.writeMatch.atcX1.atc := by
  have kept : s.writeMatch.atcX1.pipe = { s.pipe with dueMatch := none } ∧
      { s.writeMatch.atcX1.cpc with ind := s.cpc.ind } = s.cpc ∧ s.writeMatch.atcX1.mem = s.mem ∧
      s.writeMatch.atcX1.plat = s.plat ∧ s.writeMatch.atcX1.bkpt = s.bkpt ∧ s.writeMatch.atcX1.now = s.now ∧
      s.writeMatch.atcX1.atc = s.writeMatch.atcX1.atc := by
    refine ⟨?_, ?_, ?_, ?_, ?_, ?_, rfl⟩
    · rw [State.atcX1_pipe, State.writeMatch_pipe]
    · rw [State.atcX1_cpc, State.writeMatch_cpc]
    · rw [State.atcX1_mem, State.writeMatch_mem]
    · rw [State.atcX1_plat, State.writeMatch_plat]
    · rw [State.atcX1_bkpt, State.writeMatch_bkpt]
    · rw [State.atcX1_now, State.writeMatch_now]
  unfold State.x1
  split
  · exact kept
  · exact kept

/-- The indicators after X1 (10 R58; 46 R637). -/
theorem State.indAt_x1 (s : State) {n : Nat} (h1 : 1 ≤ n) : s.x1.indAt n =
    if n = 7 then s.indAt 7 && !s.now.eaci else if n = 6 then s.pipe.dueMatch.getD (s.indAt 6) else s.indAt n := by
  have before : s.writeMatch.atcX1.indAt n = if n = 6 then s.pipe.dueMatch.getD (s.indAt 6) else s.indAt n := by
    rw [State.indAt_atcX1, s.indAt_writeMatch n h1]
  unfold State.x1
  by_cases seven : n = 7
  · subst seven
    split
    · next h => rw [State.indAt_setIndAt _ 7 7 _ (by decide) (by decide) h1, if_pos rfl, if_pos rfl, h, Bool.not_true, Bool.and_false]
    · next h => rw [before, if_neg (by decide), if_pos rfl, Bool.eq_false_iff.mpr h, Bool.not_false, Bool.and_true]
  · rw [if_neg seven]
    split
    · rw [State.indAt_setIndAt _ 7 n _ (by decide) (by decide) h1, if_neg (Ne.symm seven), before]
    · exact before

/-- A field of the CPC other than the indicators, after X1. -/
theorem State.cpc_x1 (s : State) {α : Type} (f : Cpc → α) (h : ∀ c x, f { c with ind := x } = f c) : f s.x1.cpc = f s.cpc := by
  obtain ⟨-, cpc, -⟩ := s.x1_frame
  rw [← h s.x1.cpc s.cpc.ind, cpc]

/-! ### The ordinary end of a cycle -/

/-- The Restore FIFO clocked: its entries, nothing else (10 R54, R55). -/
theorem State.fifoClock_spec (s : State) :
    (s.cpc.fifoRun = true → s.pipe.fifoShifted = false →
      s.fifoClock.cpc.eari = s.cpc.iari ∧ s.fifoClock.cpc.iari = s.cpc.cri ∧ s.fifoClock.cpc.cri = s.nextCr) ∧
    (s.cpc.fifoRun = false → s.fifoClock = s) ∧
    s.fifoClock = { s with cpc := { s.cpc with
      eari := s.fifoClock.cpc.eari, iari := s.fifoClock.cpc.iari, cri := s.fifoClock.cpc.cri } } := by
  unfold State.fifoClock
  split
  · next h =>
    obtain ⟨run, -⟩ := Bool.and_eq_true_iff.mp h
    exact ⟨fun _ _ => ⟨rfl, rfl, rfl⟩, fun q => absurd (run.symm.trans q) (by decide), rfl⟩
  · next h =>
    refine ⟨fun run shifted => absurd ?_ h, fun _ => rfl, rfl⟩
    rw [run, shifted]
    rfl

/-- The next address, as a number. -/
theorem State.nextCr_cases (s : State) : (∀ a, s.pipe.crNext = some a → s.nextCr = a) ∧
    (s.pipe.crNext = none → s.nextCr = BitVec.ofNat 16 (s.pipe.cr.toNat + 1)) := by
  unfold State.nextCr
  refine ⟨fun a h => by rw [h]; rfl, fun h => ?_⟩
  rw [h]
  apply BitVec.eq_of_toNat_eq
  rw [BitVec.toNat_ofNat]
  exact BitVec.toNat_add _ _

/-- The ordinary end of a cycle: what moves where. -/
theorem State.advance_spec (s : State) :
    s.advance.pipe = { s.pipe with
      xr := s.pipe.ir
      ear := s.pipe.iar
      ir := s.isuAt s.pipe.cr
      iar := s.pipe.cr
      cr := s.nextCr
      crNext := none
      fifoShifted := false
      vpbsy := s.now.vpbsy } ∧ s.advance.cpc = s.fifoClock.cpc ∧ s.advance.mem = s.mem ∧
      s.advance.atc = s.atc ∧ s.advance.plat = s.plat := by
  obtain ⟨-, -, e⟩ := s.fifoClock_spec
  unfold State.advance
  generalize s.fifoClock = u at e
  rw [e]
  exact ⟨rfl, rfl, rfl, rfl, rfl⟩

/-- Settles O53: X1 leaves the stages and the FIFO, the move shifts them. -/
theorem pipelineMovesOn : Obligations.PipelineMovesOn := by
  intro s t
  obtain ⟨pipe, -, -, plat, -⟩ := s.x1_frame
  obtain ⟨moved, cpc, -⟩ := s.x1.advance_spec
  obtain ⟨runs, stands, -⟩ := s.x1.fifoClock_spec
  obtain ⟨jump, next⟩ := s.x1.nextCr_cases
  have eari := s.cpc_x1 Cpc.eari fun _ _ => rfl
  have iari := s.cpc_x1 Cpc.iari fun _ _ => rfl
  have cri := s.cpc_x1 Cpc.cri fun _ _ => rfl
  have run := s.cpc_x1 Cpc.fifoRun fun _ _ => rfl
  have isu : s.x1.isuAt = s.isuAt := by
    unfold State.isuAt
    rw [plat]
  rw [pipe] at runs jump next moved
  rw [isu] at moved
  rw [run, iari, cri] at runs
  have tCpc : t.cpc = s.x1.fifoClock.cpc := cpc
  have tPipe : t.pipe = _ := moved
  rw [tCpc, tPipe]
  refine ⟨rfl, rfl, rfl, rfl, jump, next, rfl, rfl, runs, fun h => ?_⟩
  rw [stands (run.trans h)]
  exact ⟨eari, iari, cri⟩

/-! ### Entries -/

/-- The flow saved: while the FIFO runs, its entries, the skip count in `CA1`, the FIFO halted (60 R722). -/
theorem State.saveFlow_spec (s : State) :
    (s.cpc.fifoRun = true → s.saveFlow.cpc.eari = s.pipe.iar ∧ s.saveFlow.cpc.iari = s.pipe.cr ∧ s.saveFlow.cpc.cri = s.nextCr ∧
      s.saveFlow.cpc.ca1 = s.pipe.skip ++ s.cpc.ca1.extractLsb' 0 6) ∧
    (s.cpc.fifoRun = false → s.saveFlow = s) ∧ s.saveFlow.cpc.fifoRun = false ∧
    { s.saveFlow with cpc := { s.saveFlow.cpc with
      eari := s.cpc.eari, iari := s.cpc.iari, cri := s.cpc.cri, ca1 := s.cpc.ca1, fifoRun := s.cpc.fifoRun } } = s := by
  unfold State.saveFlow
  split
  · next h => exact ⟨fun _ => ⟨rfl, rfl, rfl, rfl⟩, fun q => absurd (h.symm.trans q) (by decide), rfl, rfl⟩
  · next h =>
    have off : s.cpc.fifoRun = false := Bool.eq_false_iff.mpr h
    exact ⟨fun q => absurd (off.symm.trans q) (by decide), fun _ => rfl, off, rfl⟩

/-- The control bits after the flow was saved: those of the skip count, and the others as before. -/
theorem State.ca1At_saveFlow (s : State) :
    (s.cpc.fifoRun = true → s.saveFlow.ca1At 16 = bitAt s.pipe.skip 2 ∧ s.saveFlow.ca1At 15 = bitAt s.pipe.skip 1) ∧
      ∀ n, 9 ≤ n → n ≤ 14 → s.saveFlow.ca1At n = s.ca1At n := by
  obtain ⟨runs, stands, -, -⟩ := s.saveFlow_spec
  constructor
  · intro h
    obtain ⟨-, -, -, ca1⟩ := runs h
    unfold State.ca1At bitAt
    rw [ca1, BitVec.getLsbD_append, BitVec.getLsbD_append]
    exact ⟨rfl, rfl⟩
  · intro n h9 h14
    cases h : s.cpc.fifoRun
    · rw [stands h]
    · obtain ⟨-, -, -, ca1⟩ := runs h
      unfold State.ca1At
      rw [ca1, bitAt_append _ _ (by omega) (by omega), bitAt_low _ (by omega) (by omega)]

/-- The control bit of an entry: TI set or NIE cleared, nothing else (60 R722). -/
theorem State.markEntry_spec (s : State) (e : Entry) :
    (∀ n, 9 ≤ n → n ≤ 16 → (s.markEntry e).ca1At n =
      match e with | .trap => if n = 11 then true else s.ca1At n | .interrupt => if n = 10 then false else s.ca1At n) ∧
    { s.markEntry e with cpc := { (s.markEntry e).cpc with ca1 := s.cpc.ca1 } } = s := by
  have bit : ∀ m b n, 9 ≤ m → m ≤ 16 → 9 ≤ n → (s.setCa1At m b).ca1At n = if n = m then b else s.ca1At n := fun m b n hm hm' hn => by
    show (s.setCa1 _).ca1At n = _
    rw [State.ca1At_setCa1, bitAt_putBit _ _ _ _ (by omega) (by omega) (by omega)]
    simp only [show (n = m ↔ m - 8 = n - 8) by omega]
    rfl
  cases e with
  | trap => exact ⟨fun n h9 _ => bit 11 true n (by decide) (by decide) h9, rfl⟩
  | interrupt => exact ⟨fun n h9 _ => bit 10 false n (by decide) (by decide) h9, rfl⟩

/-- An entry from the state in which the flow is saved and the entry marked. -/
theorem State.enter_spec (s : State) (e : Entry) :
    let u := s.saveFlow.markEntry e
    (s.enter e).cpc = u.cpc ∧ (s.enter e).mem = u.mem ∧ (s.enter e).atc = u.atc ∧ (s.enter e).pipe.cr = e.vector ∧
      (s.enter e).pipe.skip = 2#2 ∧ (s.enter e).pipe.xr = u.pipe.ir ∧ (s.enter e).pipe.ir = u.isuAt u.pipe.cr ∧
      (s.enter e).pipe.ear = u.pipe.iar ∧ (s.enter e).plat = u.plat :=
  ⟨rfl, rfl, rfl, rfl, rfl, rfl, rfl, rfl, rfl⟩

/-- What does not read the Restore FIFO or Control Array 1 is as before. -/
theorem State.kept_of_entry (s : State) (e : Entry) {α : Type} (f : State → α) (h : ∀ (u : State) (a b c : Half) (x : Byte) (r : Bool),
    f { u with cpc := { u.cpc with eari := a, iari := b, cri := c, ca1 := x, fifoRun := r } } = f u) :
    f (s.saveFlow.markEntry e) = f s := by
  obtain ⟨-, -, -, frame⟩ := s.saveFlow_spec
  obtain ⟨-, same⟩ := s.saveFlow.markEntry_spec e
  generalize s.saveFlow.markEntry e = m at same
  calc f m = f { m with cpc := { m.cpc with ca1 := s.saveFlow.cpc.ca1 } } :=
        (h m m.cpc.eari m.cpc.iari m.cpc.cri s.saveFlow.cpc.ca1 m.cpc.fifoRun).symm
    _ = f s.saveFlow := congrArg f same
    _ = f s := (h s.saveFlow _ _ _ _ _).symm.trans (congrArg f frame)

/-- The Restore FIFO after an entry is the one saved. -/
theorem State.fifo_of_entry (s : State) (e : Entry) : let u := s.saveFlow.markEntry e
    u.cpc.eari = s.saveFlow.cpc.eari ∧ u.cpc.iari = s.saveFlow.cpc.iari ∧ u.cpc.cri = s.saveFlow.cpc.cri ∧
      u.cpc.fifoRun = s.saveFlow.cpc.fifoRun := by
  cases e <;> exact ⟨rfl, rfl, rfl, rfl⟩

/-- Settles O54: the flow is saved, the entry is marked, the pipeline goes to the vector. -/
theorem entrySavesTheFlow : Obligations.EntrySavesTheFlow := by
  intro s e t
  obtain ⟨runs, stands, halted, -⟩ := s.saveFlow_spec
  obtain ⟨skips, others⟩ := s.ca1At_saveFlow
  obtain ⟨marks, -⟩ := s.saveFlow.markEntry_spec e
  obtain ⟨cpc, mem, atc, cr, skip, xr, ir, -, -⟩ := s.enter_spec e
  obtain ⟨eari, iari, cri, run⟩ := s.fifo_of_entry e
  have kept := fun {α : Type} (f : State → α) => s.kept_of_entry e f
  have bits : ∀ n, t.ca1At n = (s.saveFlow.markEntry e).ca1At n := fun n => congrArg (fun c : Cpc => bitAt c.ca1 (n - 8)) cpc
  have plain : ∀ n, 9 ≤ n → n ≤ 16 → n ≠ 10 → n ≠ 11 → t.ca1At n = s.saveFlow.ca1At n := fun n h9 h16 h10 h11 => by
    rw [bits, marks n h9 h16]
    cases e with
    | trap => exact if_neg h11
    | interrupt => exact if_neg h10
  have tCpc : t.cpc = (s.saveFlow.markEntry e).cpc := cpc
  refine ⟨cr, skip, ?_, xr.trans (kept (fun x => x.pipe.ir) fun _ _ _ _ _ _ => rfl), ir.trans ?_, fun h => ?_, fun h => ?_, ?_, ?_,
    fun n hn => ?_, fun r => ?_, ?_, ?_, ?_, mem.trans (kept State.mem fun _ _ _ _ _ _ => rfl),
    atc.trans (kept State.atc fun _ _ _ _ _ _ => rfl)⟩
  · rw [tCpc, run, halted]
  · exact kept (fun x => x.isuAt x.pipe.cr) fun _ _ _ _ _ _ => rfl
  · obtain ⟨e1, e2, e3, -⟩ := runs h
    obtain ⟨s16, s15⟩ := skips h
    rw [tCpc, eari, iari, cri, plain 16 (by decide) (by decide) (by decide) (by decide),
      plain 15 (by decide) (by decide) (by decide) (by decide)]
    exact ⟨e1, e2, e3, s16, s15⟩
  · rw [tCpc, eari, iari, cri, plain 16 (by decide) (by decide) (by decide) (by decide),
      plain 15 (by decide) (by decide) (by decide) (by decide), stands h]
    exact ⟨rfl, rfl, rfl, rfl, rfl⟩
  · rw [bits, marks 11 (by decide) (by decide)]
    cases e with
    | trap => rfl
    | interrupt => exact others 11 (by decide) (by decide)
  · rw [bits, marks 10 (by decide) (by decide)]
    cases e with
    | trap => exact others 10 (by decide) (by decide)
    | interrupt => rfl
  · rw [plain n (by omega) (by omega) (by omega) (by omega)]
    exact others n (by omega) (by omega)
  · exact State.rsu_of_cpc ((congrArg Cpc.rsu cpc).trans (kept (fun x => x.cpc.rsu) fun _ _ _ _ _ _ => rfl)) r
  · exact (congrArg Cpc.ind cpc).trans (kept (fun x => x.cpc.ind) fun _ _ _ _ _ _ => rfl)
  · exact (congrArg Cpc.tally cpc).trans (kept (fun x => x.cpc.tally) fun _ _ _ _ _ _ => rfl)
  · exact (congrArg Cpc.sr cpc).trans (kept (fun x => x.cpc.sr) fun _ _ _ _ _ _ => rfl)

/-! ### What is recognised -/

/-- What the wires and the control bits call for. -/
theorem State.wanted_iff (s : State) : (s.wanted = some .trap ↔ s.trapPin = true ∧ s.ca1At 11 = false) ∧
    (s.wanted = some .interrupt ↔ ¬s.trapPin = true ∧ s.intPin = true ∧ s.ca1At 11 = false ∧ s.ca1At 10 = true) := by
  unfold State.wanted
  cases s.trapPin <;> cases s.ca1At 11 <;> cases s.intPin <;> cases s.ca1At 10 <;> decide

/-- What drives the trap wire. -/
theorem State.trapPin_iff (s : State) : s.trapPin = true ↔
    (s.plat.atcPresent = true ∧ ∃ n ∈ [13, 14, 16], bitAt s.atc.ita n = true) ∨
      (s.plat.bkptHw = true ∧ s.bkpt.trap = true) ∨ s.now.extTrap = true := by
  unfold State.trapPin
  simp only [Bool.or_eq_true, Bool.and_eq_true, List.mem_cons, List.not_mem_nil, or_false, exists_eq_or_imp, exists_eq_left, or_assoc]

/-- Some of the interrupt bits of `ITA` is 1, bit 10 counting only while `CA2` bit 10 is 0. -/
theorem State.intPosted_iff (s : State) : s.intPosted = true ↔
    ∃ n, 4 ≤ n ∧ n ≤ 12 ∧ bitAt s.atc.ita n = true ∧ (n = 10 → s.ca2At 10 = false) := by
  have low : (s.atc.ita.extractLsb' 3 6 != 0#6) = true ↔ ∃ n, 4 ≤ n ∧ n ≤ 9 ∧ bitAt s.atc.ita n = true := by
    rw [bne_iff_ne]
    exact part_ne_zero_iff _ 3 6
  unfold State.intPosted
  rw [Bool.or_eq_true, Bool.or_eq_true, Bool.or_eq_true, low, Bool.and_eq_true, Bool.not_eq_true']
  constructor
  · rintro (((⟨n, h4, h9, h⟩ | ⟨h, off⟩) | h) | h)
    · exact ⟨n, h4, by omega, h, fun q => by omega⟩
    · exact ⟨10, by decide, by decide, h, fun _ => off⟩
    · exact ⟨11, by decide, by decide, h, fun q => absurd q (by decide)⟩
    · exact ⟨12, by decide, by decide, h, fun q => absurd q (by decide)⟩
  · rintro ⟨n, h4, h12, h, off⟩
    by_cases h9 : n ≤ 9
    · exact .inl (.inl (.inl ⟨n, h4, h9, h⟩))
    · have cases : n = 10 ∨ n = 11 ∨ n = 12 := by omega
      rcases cases with rfl | rfl | rfl
      · exact .inl (.inl (.inr ⟨h, off rfl⟩))
      · exact .inl (.inr h)
      · exact .inr h

/-- Nothing of a fetch holds the interrupt off. -/
theorem State.intHeldOff_iff (s : State) : s.intHeldOff = false ↔
    (∀ f age, s.cpc.fetch ≠ some { data := some f, age := age }) ∧ s.cpc.fetch ≠ some { data := none, age := 0 } := by
  unfold State.intHeldOff
  cases s.cpc.fetch with
  | none => simp
  | some f =>
    obtain ⟨data, age⟩ := f
    cases data <;> simp

/-- What drives the interrupt wire. -/
theorem State.intPin_iff (s : State) : s.intPin = true ↔ s.now.extInt = true ∨ (s.plat.atcPresent = true ∧
    (∀ f age, s.cpc.fetch ≠ some { data := some f, age := age }) ∧ s.cpc.fetch ≠ some { data := none, age := 0 } ∧
    ∃ n, 4 ≤ n ∧ n ≤ 12 ∧ bitAt s.atc.ita n = true ∧ (n = 10 → s.ca2At 10 = false)) := by
  unfold State.intPin
  rw [Bool.or_eq_true, Bool.and_eq_true, Bool.and_eq_true, Bool.not_eq_true', s.intHeldOff_iff, s.intPosted_iff, and_assoc, and_assoc]

/-- Settles O55: recognition is what is wanted, unless the instruction holds it off. -/
theorem whatIsRecognised : Obligations.WhatIsRecognised := by
  intro s i fetches
  obtain ⟨trap, interrupt⟩ := s.wanted_iff
  have holds : interruptible i = true ↔ ¬fetches := by
    show interruptible i = true ↔ ¬(match i with
      | .mrr _ | .fr _ | .f _ | .lfa _ _ | .lfal _ _ | .lfd _ _ | .fl _ | .tie _ _ => True
      | _ => False)
    cases i <;> simp [interruptible]
  have recognised : s.recognised (some i) = if interruptible i then s.wanted else none := rfl
  refine ⟨?_, ?_, trap, interrupt, s.trapPin_iff, s.intPin_iff⟩
  · rw [recognised, ← holds]
    split
    · next h => rw [trap, and_iff_right h]
    · next h => exact ⟨fun q => absurd q (by decide), fun q => absurd q.1 h⟩
  · rw [recognised, ← holds]
    split
    · next h => rw [interrupt, and_iff_right h]
    · next h => exact ⟨fun q => absurd q (by decide), fun q => absurd q.1 h⟩

end Sys2Proof.Machine
end

section
/-! The return from a trap or an interrupt (47 R680; 60 R722, R730). -/

namespace Sys2Proof.Machine

/-! ### A presented breakpoint -/

/-- The end of a cycle in which a breakpoint is presented: written at the address fetched next, whose fetch is not hit (60 R730). -/
theorem State.advance_presented {s : State} {j06 : Bool} (h : s.bkpt.presents = some j06)
    (hc : Table.canonical false s.bkpt.ram = true) :
    (∀ a, Table.get false a s.advance.bkpt.ram = if a = s.nextCr.toNat then j06 else Table.get false a s.bkpt.ram) ∧
      s.advance.bkptHit = false := by
  obtain ⟨-, -, clocked⟩ := s.fifoClock_spec
  have same : s.fifoClock.bkpt = s.bkpt := by rw [clocked]
  have ram : s.advance.bkpt.ram = Table.set false s.nextCr.toNat j06 s.bkpt.ram := by
    show (match s.fifoClock.bkpt.presents with
      | some j06 => Table.set false s.nextCr.toNat j06 s.fifoClock.bkpt.ram
      | none => s.fifoClock.bkpt.ram) = _
    rw [same, h]
  have presented : s.advance.bkpt.crPresented = true := by
    show s.fifoClock.bkpt.presents.isSome = true
    rw [same, h]
    rfl
  constructor
  · intro a
    rw [ram, Table.get_set _ _ _ _ _ hc]
  · unfold State.bkptHit
    rw [presented, Bool.not_true, Bool.and_false]

/-! ### One RTI -/

/-- The FIFO moved and the jump made, halted unless `runs`; the breakpoint is presented with it. -/
def State.rtiFlow (s : State) (jc : BitVec 2) (runs : Bool) : State :=
  ((if runs then s else s.setFifoRun false).presentBkpt (bitAt jc 2) (bitAt jc 1)).restore

/-- The controls of K1: TI cleared, NIE set. -/
def State.rtiControls (s : State) (k1 : Bool) : State := if k1 then (s.setCa1At 11 false).setCa1At 10 true else s

/-- RTI in its parts. -/
theorem exec_rti_eq (jc : BitVec 2) (kc : Lit4) (s : State) : exec (.rti jc kc) s =
    if (bitAt kc 2 && s.wanted.isNone) && s.cpc.ca1.extractLsb' 6 2 == 3#2 then .refused .skipCountThree
    else .next (if bitAt kc 2 && s.wanted.isNone then ((s.rtiFlow jc (bitAt kc 2)).rtiControls (bitAt kc 1)).restart
      else (s.rtiFlow jc (bitAt kc 2)).rtiControls (bitAt kc 1)) := rfl

/-- The flow of an RTI. -/
theorem State.rtiFlow_spec (s : State) (jc : BitVec 2) (runs : Bool) :
    let t := s.rtiFlow jc runs
    t.pipe.crNext = some s.cpc.eari ∧ t.cpc.eari = s.cpc.iari ∧ t.cpc.iari = s.cpc.cri ∧ t.cpc.cri = s.cpc.eari ∧
      t.cpc.fifoRun = (s.cpc.fifoRun && runs) ∧ t.bkpt = (s.presentBkpt (bitAt jc 2) (bitAt jc 1)).bkpt ∧
      { t with
        cpc := { t.cpc with eari := s.cpc.eari, iari := s.cpc.iari, cri := s.cpc.cri, fifoRun := s.cpc.fifoRun }
        pipe := { t.pipe with crNext := s.pipe.crNext, fifoShifted := s.pipe.fifoShifted }
        bkpt := s.bkpt } = s := by
  have present : ∀ u : State, u.bkpt = s.bkpt → u.plat = s.plat →
      u.presentBkpt (bitAt jc 2) (bitAt jc 1) = { u with bkpt := (s.presentBkpt (bitAt jc 2) (bitAt jc 1)).bkpt } := by
    intro u hb hp
    unfold State.presentBkpt
    rw [hp, hb]
    split
    · rfl
    · rw [← hb, ← hp]
  unfold State.rtiFlow
  cases runs
  · rw [if_neg Bool.false_ne_true, present (s.setFifoRun false) rfl rfl]
    exact ⟨rfl, rfl, rfl, rfl, (Bool.and_false _).symm, rfl, rfl⟩
  · rw [if_pos rfl, present s rfl rfl]
    exact ⟨rfl, rfl, rfl, rfl, (Bool.and_true _).symm, rfl, rfl⟩

/-- The controls of an RTI: the two bits, no other component. -/
theorem State.rtiControls_spec (s : State) (k1 : Bool) :
    let t := s.rtiControls k1
    t.ca1At 11 = (s.ca1At 11 && !k1) ∧ t.ca1At 10 = (s.ca1At 10 || k1) ∧
      (∀ n, 9 ≤ n → n ≤ 16 → n ≠ 10 → n ≠ 11 → t.ca1At n = s.ca1At n) ∧
      t.cpc.ca1.extractLsb' 6 2 = s.cpc.ca1.extractLsb' 6 2 ∧ { t with cpc := { t.cpc with ca1 := s.cpc.ca1 } } = s := by
  unfold State.rtiControls
  cases k1
  · exact ⟨(Bool.and_true _).symm, (Bool.or_false _).symm, fun _ _ _ _ _ => rfl, rfl, rfl⟩
  · rw [if_pos rfl]
    have bit : ∀ n, 9 ≤ n → n ≤ 16 → ((s.setCa1At 11 false).setCa1At 10 true).ca1At n =
        if n = 10 then true else if n = 11 then false else s.ca1At n := fun n h9 h16 => by
      show bitAt (putBit (putBit s.cpc.ca1 3 false) 2 true) (n - 8) = _
      rw [bitAt_putBit _ _ _ _ (by decide) (by decide) (by omega), bitAt_putBit _ _ _ _ (by decide) (by decide) (by omega)]
      simp only [show (2 = n - 8 ↔ n = 10) by omega, show (3 = n - 8 ↔ n = 11) by omega]
      rfl
    refine ⟨(bit 11 (by decide) (by decide)).trans (Bool.and_false _).symm, (bit 10 (by decide) (by decide)).trans (Bool.or_true _).symm,
      fun n h9 h16 h10 h11 => (bit n h9 h16).trans ((if_neg h10).trans (if_neg h11)), ?_, rfl⟩
    show (putBit (putBit s.cpc.ca1 3 false) 2 true).extractLsb' 6 2 = _
    rw [topBits_putBit _ _ (by decide), topBits_putBit _ _ (by decide)]

/-- The FIFO of `s` restarts at an RTI with the controls `kc`. -/
abbrev State.Restarts (s : State) (kc : Lit4) : Prop := bitAt kc 2 = true ∧ s.wanted = none

/-- What an RTI that is not refused leaves. -/
structure Returned (s t : State) (jc : BitVec 2) (kc : Lit4) : Prop where
  crNext : t.pipe.crNext = some s.cpc.eari
  fifo : t.cpc.eari = s.cpc.iari ∧ t.cpc.iari = s.cpc.cri ∧ t.cpc.cri = s.cpc.eari
  restarts : s.Restarts kc → t.cpc.fifoRun = true ∧ t.pipe.skip = s.cpc.ca1.extractLsb' 6 2
  stays : ¬s.Restarts kc → t.pipe.skip = s.pipe.skip ∧ t.cpc.fifoRun = (s.cpc.fifoRun && bitAt kc 2)
  trapInhibit : t.ca1At 11 = (s.ca1At 11 && !bitAt kc 1)
  enable : t.ca1At 10 = (s.ca1At 10 || bitAt kc 1)
  controls : ∀ n, 9 ≤ n → n ≤ 16 → n ≠ 10 → n ≠ 11 → t.ca1At n = s.ca1At n
  owed : t.cpc.ca1.extractLsb' 6 2 = s.cpc.ca1.extractLsb' 6 2
  bkpt : t.bkpt = (s.presentBkpt (bitAt jc 2) (bitAt jc 1)).bkpt
  kept : { t with
    cpc := { t.cpc with eari := s.cpc.eari, iari := s.cpc.iari, cri := s.cpc.cri, fifoRun := s.cpc.fifoRun, ca1 := s.cpc.ca1 }
    pipe := { t.pipe with crNext := s.pipe.crNext, fifoShifted := s.pipe.fifoShifted, skip := s.pipe.skip }
    bkpt := s.bkpt } = s

/-- The restart as the model computes it. -/
theorem State.restarts_iff (s : State) (kc : Lit4) : (bitAt kc 2 && s.wanted.isNone) = true ↔ s.Restarts kc := by
  rw [Bool.and_eq_true, Option.isNone_iff_eq_none]

/-- The flow, the controls and, if it is due, the restart together. -/
theorem State.returned_of_parts (s : State) (jc : BitVec 2) (kc : Lit4) :
    Returned s (if bitAt kc 2 && s.wanted.isNone then ((s.rtiFlow jc (bitAt kc 2)).rtiControls (bitAt kc 1)).restart
      else (s.rtiFlow jc (bitAt kc 2)).rtiControls (bitAt kc 1)) jc kc := by
  have due := s.restarts_iff kc
  obtain ⟨crNext, eari, iari, cri, run, bkpt, flow⟩ := s.rtiFlow_spec jc (bitAt kc 2)
  generalize s.rtiFlow jc (bitAt kc 2) = u at *
  obtain ⟨ti, nie, others, top, kept⟩ := u.rtiControls_spec (bitAt kc 1)
  generalize u.rtiControls (bitAt kc 1) = v at *
  have ca1 : u.cpc.ca1 = s.cpc.ca1 := (congrArg (fun x : State => x.cpc.ca1) flow :)
  have skip : u.pipe.skip = s.pipe.skip := (congrArg (fun x : State => x.pipe.skip) flow :)
  have bits : ∀ n, u.ca1At n = s.ca1At n := fun n => congrArg (fun x => bitAt x (n - 8)) ca1
  have same : ∀ {α : Type} (f : State → α), f { v with cpc := { v.cpc with ca1 := u.cpc.ca1 } } = f u := fun f => congrArg f kept
  have all : { v with
      cpc := { v.cpc with eari := s.cpc.eari, iari := s.cpc.iari, cri := s.cpc.cri, fifoRun := s.cpc.fifoRun, ca1 := s.cpc.ca1 }
      pipe := { v.pipe with crNext := s.pipe.crNext, fifoShifted := s.pipe.fifoShifted, skip := s.pipe.skip }
      bkpt := s.bkpt } = s :=
    (same fun x => { x with
      cpc := { x.cpc with eari := s.cpc.eari, iari := s.cpc.iari, cri := s.cpc.cri, fifoRun := s.cpc.fifoRun, ca1 := s.cpc.ca1 }
      pipe := { x.pipe with crNext := s.pipe.crNext, fifoShifted := s.pipe.fifoShifted, skip := s.pipe.skip }
      bkpt := s.bkpt }).trans
    (congrArg (fun x : State => { x with
      cpc := { x.cpc with ca1 := s.cpc.ca1 }, pipe := { x.pipe with skip := s.pipe.skip } }) flow)
  have vFifo : v.cpc.eari = s.cpc.iari ∧ v.cpc.iari = s.cpc.cri ∧ v.cpc.cri = s.cpc.eari :=
    ⟨(same fun x => x.cpc.eari).trans eari, (same fun x => x.cpc.iari).trans iari, (same fun x => x.cpc.cri).trans cri⟩
  have vNext : v.pipe.crNext = some s.cpc.eari := (same fun x => x.pipe.crNext).trans crNext
  have vBkpt : v.bkpt = (s.presentBkpt (bitAt jc 2) (bitAt jc 1)).bkpt := (same fun x => x.bkpt).trans bkpt
  rw [bits] at ti nie
  rw [ca1] at top
  split
  · next h =>
    exact ⟨vNext, vFifo, fun _ => ⟨rfl, top⟩, fun q => absurd (due.mp h) q, ti, nie,
      fun n h9 h16 h10 h11 => (others n h9 h16 h10 h11).trans (bits n), top, vBkpt, all⟩
  · next h =>
    exact ⟨vNext, vFifo, fun q => absurd (due.mpr q) h, fun _ => ⟨(same fun x => x.pipe.skip).trans skip,
      (same fun x => x.cpc.fifoRun).trans run⟩, ti, nie, fun n h9 h16 h10 h11 => (others n h9 h16 h10 h11).trans (bits n), top, vBkpt,
      all⟩

/-- RTI: refused where a restart would owe three slots, else `Returned`. -/
theorem exec_rti (jc : BitVec 2) (kc : Lit4) (s : State) :
    (s.Restarts kc → s.cpc.ca1.extractLsb' 6 2 = 3#2 → exec (.rti jc kc) s = .refused .skipCountThree) ∧
    (¬(s.Restarts kc ∧ s.cpc.ca1.extractLsb' 6 2 = 3#2) → ∃ t, exec (.rti jc kc) s = .next t ∧ Returned s t jc kc) := by
  have test : ((bitAt kc 2 && s.wanted.isNone) && s.cpc.ca1.extractLsb' 6 2 == 3#2) = true ↔
      s.Restarts kc ∧ s.cpc.ca1.extractLsb' 6 2 = 3#2 := by
    rw [Bool.and_eq_true, s.restarts_iff, beq_iff_eq]
  rw [exec_rti_eq]
  refine ⟨fun h3 hr => if_pos (test.mpr ⟨h3, hr⟩), fun h => ⟨_, if_neg (mt test.mp h), ?_⟩⟩
  exact s.returned_of_parts jc kc

/-- Settles O56: the parts of an RTI, and the breakpoint it presents. -/
theorem returnStep : Obligations.ReturnStep := by
  intro jc kc s restarts
  have owed : s.cpc.ca1.extractLsb' 6 2 = 3#2 ↔ s.cpc.ca1.toNat / 64 = 3 := by
    have := s.cpc.ca1.isLt
    rw [← BitVec.toNat_inj, toNat_part]
    show s.cpc.ca1.toNat / 64 % 4 = 3 ↔ _
    omega
  obtain ⟨refused, done⟩ := exec_rti jc kc s
  refine ⟨fun h h3 => refused h (owed.mpr h3), fun h => ?_⟩
  obtain ⟨t, run, r⟩ := done fun q => h ⟨q.1, owed.mp q.2⟩
  obtain ⟨eari, iari, cri⟩ := r.fifo
  have kept : ∀ {α : Type} (f : State → α), f { t with
      cpc := { t.cpc with eari := s.cpc.eari, iari := s.cpc.iari, cri := s.cpc.cri, fifoRun := s.cpc.fifoRun, ca1 := s.cpc.ca1 }
      pipe := { t.pipe with crNext := s.pipe.crNext, fifoShifted := s.pipe.fifoShifted, skip := s.pipe.skip }
      bkpt := s.bkpt } = f s := fun f => congrArg f r.kept
  refine ⟨t, run, r.crNext, eari, iari, cri, fun q => ⟨(r.restarts q).1, ?_⟩, r.stays, r.trapInhibit, r.enable, r.controls,
    fun q => ?_, fun hw j05 hc => ?_, fun k => State.rsu_of_cpc (kept fun x => x.cpc.rsu) k, kept fun x => x.cpc.ind,
    kept fun x => x.cpc.tally, kept State.mem, kept State.atc⟩
  · have := s.cpc.ca1.isLt
    rw [(r.restarts q).2, toNat_part]
    omega
  · rw [r.bkpt, (s.presentBkpt_spec _ _).2 q]
  · have presented : t.bkpt = { s.bkpt with presents := some (bitAt jc 2) } := by
      rw [r.bkpt]
      unfold State.presentBkpt
      rw [hw, j05]
      rfl
    obtain ⟨ram, hit⟩ := t.advance_presented (j06 := bitAt jc 2) (by rw [presented]) (by rw [presented]; exact hc)
    rw [presented] at ram ⊢
    refine ⟨rfl, rfl, rfl, fun a => ?_, hit⟩
    rw [ram a]
    unfold State.nextCr
    rw [r.crNext]
    rfl

/-! ### Three RTIs -/

/-- What entries, RTIs and moves of the pipeline leave alone. -/
structure FlowKept (s u : State) : Prop where
  rsu : u.cpc.rsu = s.cpc.rsu
  ind : u.cpc.ind = s.cpc.ind
  jr : u.cpc.jr = s.cpc.jr
  fetch : u.cpc.fetch = s.cpc.fetch
  mem : u.mem = s.mem
  atc : u.atc = s.atc
  plat : u.plat = s.plat
  now : u.now = s.now

/-- One after another. -/
theorem FlowKept.trans {s t u : State} (h : FlowKept s t) (g : FlowKept t u) : FlowKept s u :=
  ⟨g.rsu.trans h.rsu, g.ind.trans h.ind, g.jr.trans h.jr, g.fetch.trans h.fetch, g.mem.trans h.mem, g.atc.trans h.atc,
    g.plat.trans h.plat, g.now.trans h.now⟩

/-- Nothing asserts the wires of traps and interrupts, and there is no breakpoint hardware. -/
structure Quiet (s : State) : Prop where
  bkptHw : s.plat.bkptHw = false
  trap : s.trapPin = false
  int : s.intPin = false

/-- The wires stay negated. -/
theorem Quiet.kept {s u : State} (h : Quiet s) (k : FlowKept s u) : Quiet u := by
  refine ⟨by rw [k.plat, h.bkptHw], ?_, ?_⟩
  · have trap := h.trap
    unfold State.trapPin at trap ⊢
    rw [h.bkptHw] at trap
    rw [k.plat, k.atc, k.now, h.bkptHw]
    exact trap
  · have int := h.int
    unfold State.intPin State.intHeldOff State.intPosted at int ⊢
    rw [k.plat, k.atc, k.now, k.fetch]
    exact int

/-- Nothing is wanted then. -/
theorem Quiet.wanted {s : State} (h : Quiet s) : s.wanted = none := by
  unfold State.wanted
  rw [h.trap, h.int]
  rfl

/-- An RTI leaves them alone. -/
theorem Returned.flowKept {s t : State} {jc : BitVec 2} {kc : Lit4} (r : Returned s t jc kc) : FlowKept s t := by
  have kept : ∀ {α : Type} (f : State → α), f { t with
      cpc := { t.cpc with eari := s.cpc.eari, iari := s.cpc.iari, cri := s.cpc.cri, fifoRun := s.cpc.fifoRun, ca1 := s.cpc.ca1 }
      pipe := { t.pipe with crNext := s.pipe.crNext, fifoShifted := s.pipe.fifoShifted, skip := s.pipe.skip }
      bkpt := s.bkpt } = f s := fun f => congrArg f r.kept
  exact ⟨kept fun x => x.cpc.rsu, kept fun x => x.cpc.ind, kept fun x => x.cpc.jr, kept fun x => x.cpc.fetch, kept State.mem,
    kept State.atc, kept State.plat, kept State.now⟩

/-- So does the end of a cycle with the FIFO halted, which moves no entry. -/
theorem State.advance_halted {s : State} (h : s.cpc.fifoRun = false) : FlowKept s s.advance ∧ s.advance.cpc = s.cpc := by
  obtain ⟨-, cpc, mem, atc, plat⟩ := s.advance_spec
  obtain ⟨-, stands, -⟩ := s.fifoClock_spec
  rw [stands h] at cpc
  have now : s.advance.now = s.now := by
    show s.fifoClock.now = s.now
    rw [stands h]
  exact ⟨⟨congrArg Cpc.rsu cpc, congrArg Cpc.ind cpc, congrArg Cpc.jr cpc, congrArg Cpc.fetch cpc, mem, atc, plat, now⟩, cpc⟩

/-- An entry leaves them alone too; with the FIFO running it saves the flow. -/
theorem State.enter_saves {s : State} (e : Entry) (h : s.cpc.fifoRun = true) : FlowKept s (s.enter e) ∧
    (s.enter e).cpc.eari = s.pipe.iar ∧ (s.enter e).cpc.iari = s.pipe.cr ∧ (s.enter e).cpc.cri = s.nextCr ∧
      (s.enter e).cpc.fifoRun = false ∧ (s.enter e).cpc.ca1.extractLsb' 6 2 = s.pipe.skip := by
  obtain ⟨runs, -, halted, -⟩ := s.saveFlow_spec
  obtain ⟨eari, iari, cri, ca1⟩ := runs h
  obtain ⟨cpc, mem, atc, -, -, -, -, -, plat⟩ := s.enter_spec e
  obtain ⟨e1, e2, e3, run⟩ := s.fifo_of_entry e
  have kept := fun {α : Type} (f : State → α) => s.kept_of_entry e f
  have now : (s.enter e).now = (s.saveFlow.markEntry e).now := rfl
  have top : (s.saveFlow.markEntry e).cpc.ca1.extractLsb' 6 2 = s.saveFlow.cpc.ca1.extractLsb' 6 2 := by
    cases e with
    | trap => exact topBits_putBit s.saveFlow.cpc.ca1 true (n := 3) (by decide)
    | interrupt => exact topBits_putBit s.saveFlow.cpc.ca1 false (n := 2) (by decide)
  have skip : (s.pipe.skip ++ s.cpc.ca1.extractLsb' 0 6 : Byte).extractLsb' 6 2 = s.pipe.skip := by
    have := s.pipe.skip.isLt
    have := (s.cpc.ca1.extractLsb' 0 6).isLt
    apply BitVec.eq_of_toNat_eq
    rw [toNat_part, toNat_join]
    omega
  refine ⟨⟨?_, ?_, ?_, ?_, ?_, ?_, ?_, ?_⟩, ?_, ?_, ?_, ?_, ?_⟩
  · exact (congrArg Cpc.rsu cpc).trans (kept (fun x => x.cpc.rsu) fun _ _ _ _ _ _ => rfl)
  · exact (congrArg Cpc.ind cpc).trans (kept (fun x => x.cpc.ind) fun _ _ _ _ _ _ => rfl)
  · exact (congrArg Cpc.jr cpc).trans (kept (fun x => x.cpc.jr) fun _ _ _ _ _ _ => rfl)
  · exact (congrArg Cpc.fetch cpc).trans (kept (fun x => x.cpc.fetch) fun _ _ _ _ _ _ => rfl)
  · exact mem.trans (kept State.mem fun _ _ _ _ _ _ => rfl)
  · exact atc.trans (kept State.atc fun _ _ _ _ _ _ => rfl)
  · exact plat.trans (kept State.plat fun _ _ _ _ _ _ => rfl)
  · exact now.trans (kept State.now fun _ _ _ _ _ _ => rfl)
  · rw [cpc, e1, eari]
  · rw [cpc, e2, iari]
  · rw [cpc, e3, cri]
  · rw [cpc, run, halted]
  · rw [cpc, top, ca1, skip]

/-- An RTI with K2 = 0 from a halted FIFO, then the end of the cycle: the FIFO has rotated, the controls are written. -/
theorem exec_rti_halted {s : State} {kc : Lit4} (halted : s.cpc.fifoRun = false) (k2 : bitAt kc 2 = false) :
    ∃ t, exec (.rti 0 kc) s = .next t ∧ t.pipe.crNext = some s.cpc.eari ∧ FlowKept s t.advance ∧
      t.advance.cpc.eari = s.cpc.iari ∧ t.advance.cpc.iari = s.cpc.cri ∧ t.advance.cpc.cri = s.cpc.eari ∧
      t.advance.cpc.fifoRun = false ∧ t.advance.cpc.ca1.extractLsb' 6 2 = s.cpc.ca1.extractLsb' 6 2 ∧
      t.advance.ca1At 11 = (s.ca1At 11 && !bitAt kc 1) ∧ t.advance.ca1At 10 = (s.ca1At 10 || bitAt kc 1) := by
  have stays : ¬s.Restarts kc := fun q => absurd (k2.symm.trans q.1) (by decide)
  obtain ⟨t, run, r⟩ := (exec_rti 0 kc s).2 fun q => stays q.1
  have still : t.cpc.fifoRun = false := by rw [(r.stays stays).2, halted, Bool.false_and]
  obtain ⟨moved, cpc⟩ := t.advance_halted still
  obtain ⟨eari, iari, cri⟩ := r.fifo
  refine ⟨t, run, r.crNext, r.flowKept.trans moved, ?_, ?_, ?_, ?_, ?_, ?_, ?_⟩
  · rw [cpc, eari]
  · rw [cpc, iari]
  · rw [cpc, cri]
  · rw [cpc, still]
  · rw [cpc, r.owed]
  · exact (congrArg (fun c : Cpc => bitAt c.ca1 3) cpc).trans r.trapInhibit
  · exact (congrArg (fun c : Cpc => bitAt c.ca1 2) cpc).trans r.enable

/-- Settles O57: two RTIs rotate the halted FIFO, the third restarts it with the skip count the entry saved. -/
theorem returnUndoesEntry : Obligations.ReturnUndoesEntry := by
  intro s e k2 k3 running legal bkptHw trap int k2off k3on k1
  obtain ⟨keptE, eari, iari, cri, halted, skip⟩ := s.enter_saves e running
  obtain ⟨t1, run1, next1, kept1, eari1, iari1, cri1, halted1, owed1, -, -⟩ := exec_rti_halted (kc := 0) halted (by decide)
  obtain ⟨t2, run2, next2, kept2, eari2, -, -, halted2, owed2, ti2, nie2⟩ := exec_rti_halted (kc := k2) halted1 k2off
  have kept := (keptE.trans kept1).trans kept2
  have owed : t2.advance.cpc.ca1.extractLsb' 6 2 = s.pipe.skip := by rw [owed2, owed1, skip]
  have restarts : t2.advance.Restarts k3 := ⟨k3on, (Quiet.kept ⟨bkptHw, trap, int⟩ kept).wanted⟩
  obtain ⟨t3, run3, r⟩ := (exec_rti 0 k3 t2.advance).2 fun q => legal (owed.symm.trans q.2)
  obtain ⟨run, skip3⟩ := r.restarts restarts
  have all := kept.trans r.flowKept
  refine ⟨t1, t2, t3, run1, run2, run3, ?_, ?_, ?_, skip3.trans owed, run, ?_, ?_, fun k => State.rsu_of_cpc all.rsu k, all.ind, all.jr,
    all.mem⟩
  · rw [next1, eari]
  · rw [next2, eari1, iari]
  · rw [r.crNext, eari2, iari1, cri]
  · rw [r.trapInhibit, ti2]
    rcases k1 with k | k <;> simp [k]
  · rw [r.enable, nie2]
    rcases k1 with k | k <;> simp [k]

end Sys2Proof.Machine
end

section
/-! Voided slots, held cycles and resets (10 R46, R47, R49; 70 R760, R762). -/

namespace Sys2Proof.Machine

/-! ### What a cycle keeps -/

/-- A fetched word that gets older, or goes by: the pipeline, memory, and of the CPC everything but the fetch are as before. -/
theorem State.ageFetch_keeps (s : State) : s.ageFetch.pipe = s.pipe ∧ s.ageFetch.mem = s.mem ∧
    { s.ageFetch.cpc with fetch := s.cpc.fetch } = s.cpc ∧ s.ageFetch.now = s.now ∧ s.ageFetch.plat = s.plat := by
  unfold State.ageFetch
  split
  · exact ⟨rfl, rfl, rfl, rfl, rfl⟩
  · split
    · obtain ⟨-, -, cpc, mem, pipe, plat, -, -, now, -⟩ := s.dropFetch_keeps
      exact ⟨pipe, mem, by rw [cpc], now, plat⟩
    · exact ⟨rfl, rfl, rfl, rfl, rfl⟩

/-- A field of the CPC outside the Restore FIFO, after the ordinary end of a cycle. -/
theorem State.cpc_advance (s : State) {α : Type} (f : Cpc → α)
    (h : ∀ c a b d, f { c with eari := a, iari := b, cri := d } = f c) : f s.advance.cpc = f s.cpc := by
  obtain ⟨-, cpc, -⟩ := s.advance_spec
  obtain ⟨-, -, clocked⟩ := s.fifoClock_spec
  rw [cpc, clocked]
  exact h _ _ _ _

/-- The indicators depend on two registers of the CPC. -/
theorem State.indAt_advance (s : State) (n : Nat) : s.advance.indAt n = s.indAt n :=
  State.indAt_of_cpc (s.cpc_advance Cpc.ind fun _ _ _ _ => rfl) (s.cpc_advance Cpc.ca1 fun _ _ _ _ => rfl) n

/-! ### A voided slot -/

/-- A voided slot: the skip count, the fetch and what is remembered of the cycle; nothing else in the CPC, the pipeline and memory. -/
theorem State.voidedSlot_keeps (s : State) : s.voidedSlot.pipe = { s.pipe with skip := s.pipe.skip - 1, prev := none } ∧
    s.voidedSlot.mem = s.mem ∧ { s.voidedSlot.cpc with fetch := s.cpc.fetch } = s.cpc ∧ s.voidedSlot.plat = s.plat := by
  obtain ⟨pipe, mem, cpc, -, plat⟩ :=
    State.ageFetch_keeps (({ s with pipe := { s.pipe with skip := s.pipe.skip - 1 } } : State).setPrev none)
  exact ⟨pipe, mem, cpc, plat⟩

/-- A cycle whose slot is voided and in which nothing is recognised. -/
theorem State.runCycle_of_voided {s : State} (hb : s.busWait = false) (hk : s.pipe.skip ≠ 0#2) (hw : s.wanted = none) :
    s.runCycle = .next (s.voidedSlot.finish none) := by
  have quiet : s.recognised none = none := hw
  unfold State.runCycle
  rw [hb, State.slot_of_skip hk]
  show Host.Outcome.next (s.voidedSlot.finish (s.recognised none)) = _
  rw [quiet]

/-! ### A held cycle -/

/-- A held cycle: of the CPC only an indicator and the age of an aborted fetch. -/
theorem State.held_cpc (s : State) : { s.held.cpc with ind := s.cpc.ind, fetch := s.cpc.fetch } = s.cpc ∧
    (∀ n, s.cpc.fetch = some { data := none, age := n } → s.held.cpc.fetch = some { data := none, age := n + 1 }) ∧
    ((∀ n, s.cpc.fetch ≠ some { data := none, age := n }) → s.held.cpc.fetch = s.cpc.fetch) := by
  obtain ⟨-, x1, -⟩ := s.ageAborted.deferMatch.x1_frame
  have fetch : s.held.cpc.fetch = s.ageAborted.cpc.fetch := (congrArg Cpc.fetch x1 :)
  have aged : { s.ageAborted.cpc with fetch := s.cpc.fetch } = s.cpc ∧
      (∀ n, s.cpc.fetch = some { data := none, age := n } → s.ageAborted.cpc.fetch = some { data := none, age := n + 1 }) ∧
      ((∀ n, s.cpc.fetch ≠ some { data := none, age := n }) → s.ageAborted.cpc.fetch = s.cpc.fetch) := by
    unfold State.ageAborted
    split
    · next n h => exact ⟨rfl, fun m q => by rw [h] at q; cases q; rfl, fun q => absurd h (q n)⟩
    · next h => exact ⟨rfl, fun n q => absurd q (h n), fun _ => rfl⟩
  obtain ⟨kept, older, same⟩ := aged
  refine ⟨?_, fun n q => fetch.trans (older n q), fun q => fetch.trans (same q)⟩
  exact (congrArg (fun c : Cpc => { c with ind := s.cpc.ind, fetch := s.cpc.fetch }) x1 :).trans
    (congrArg (fun c : Cpc => { c with ind := s.cpc.ind }) kept :)

/-- A cycle in which the interpret stage waits for the bus is held. -/
theorem State.runCycle_of_busWait {s : State} (h : s.busWait = true) : s.runCycle = .next s.held := by
  unfold State.runCycle
  rw [h]
  rfl

/-- The bus wait: an instruction that needs the bus stands in the interpret stage, and the bus is taken (10 R49; 22 R275, R290). -/
theorem State.busWait_of_needs {s : State} {i : Instr} (hd : decode s.pipe.ir (s.isuAt s.pipe.cr) = .ok i) (hn : needsBus i = true)
    (hk : s.pipe.skip = 0#2 ∨ s.pipe.skip = 1#2)
    (hl : s.pipe.skip = 0#2 → ∀ x, decode s.pipe.xr s.pipe.ir = .ok x → x.literal = none)
    (taken : (s.now.bavNegated = true ∧ s.atc.reqs = false ∧ s.atc.busy2 = false) ∨ s.atc.seq ≠ .idle) : s.busWait = true := by
  have bus : s.busTaken = true := by
    unfold State.busTaken State.reqsHolds State.operationRuns
    rw [Bool.or_eq_true]
    rcases taken with ⟨bav, reqs, busy⟩ | seq
    · rw [bav, reqs, busy]
      exact .inl rfl
    · exact .inr (bne_iff_ne.mpr seq)
  have noLiteral : s.interpretsLiteral = false := by
    unfold State.interpretsLiteral
    rcases hk with hk | hk
    · rw [hk]
      split
      · next x hx => rw [hl hk x hx]; rfl
      · rfl
    · rw [hk]
      rfl
  have few : decide (s.pipe.skip.toNat ≤ 1) = true := by
    rcases hk with hk | hk <;> rw [hk] <;> rfl
  unfold State.busWait State.interpretNeedsBus
  rw [bus, hd, Bool.true_and]
  show (needsBus i && decide (s.pipe.skip.toNat ≤ 1) && !s.interpretsLiteral) = true
  rw [hn, few, noLiteral]
  rfl

/-- The slot waits: for a running operation, or for the word of an RCV. -/
theorem State.waits_of {s : State} {i : Instr} (hh : s.hazard i = none)
    (h : (needsBus i = true ∧ s.atc.seq ≠ .idle) ∨ (isRcv i = true ∧ s.wordOnBus = none ∧ s.wanted = none)) : s.waits i = true := by
  unfold State.waits State.operationWait State.receiveWait State.operationRuns
  rw [hh, Option.isNone_none, Bool.and_true, Bool.or_eq_true]
  rcases h with ⟨bus, seq⟩ | ⟨rcv, word, wanted⟩
  · left
    rw [bus, Bool.true_and]
    exact bne_iff_ne.mpr seq
  · right
    rw [rcv, word, wanted]
    rfl

/-- Settles O52: a voided slot counts the skip count down and moves the words on; a wait holds the cycle. -/
theorem voidedSlotsAndWaits : Obligations.VoidedSlotsAndWaits := by
  constructor
  · intro s b hb hr hu hw hk hn
    obtain ⟨pipe, mem, cpc, -⟩ := b.unreset.voidedSlot_keeps
    obtain ⟨xPipe, -, xMem, -⟩ := b.unreset.voidedSlot.x1_frame
    obtain ⟨moved, -, aMem, -⟩ := b.unreset.voidedSlot.x1.advance_spec
    have run : step s = .next (b.unreset.voidedSlot.finish none) :=
      (step_of_running hb hr hu).trans (State.runCycle_of_voided (s := b.unreset) hw hk hn)
    have field : ∀ {α : Type} (f : Cpc → α), (∀ c x, f { c with ind := x } = f c) →
        (∀ c a b d, f { c with eari := a, iari := b, cri := d } = f c) →
        (∀ c x, f { c with fetch := x } = f c) → f (b.unreset.voidedSlot.finish none).cpc = f b.cpc := fun f hi hf hx => by
      show f b.unreset.voidedSlot.x1.advance.cpc = _
      rw [State.cpc_advance _ f hf, State.cpc_x1 _ f hi, ← hx _ b.cpc.fetch]
      exact congrArg f cpc
    have ind : ∀ n, 1 ≤ n → (b.unreset.voidedSlot.finish none).indAt n = b.unreset.voidedSlot.x1.indAt n := fun n _ =>
      State.indAt_advance _ n
    have indV : ∀ n, b.unreset.voidedSlot.indAt n = b.indAt n := fun n =>
      State.indAt_of_cpc (congrArg Cpc.ind cpc :) (congrArg Cpc.ca1 cpc :) n
    rw [xPipe, pipe] at moved
    have tPipe : (b.unreset.voidedSlot.finish none).pipe = _ := moved
    refine ⟨_, run, by rw [tPipe]; rfl, by rw [tPipe]; rfl, ?_, fun r => State.rsu_of_cpc (field Cpc.rsu (fun _ _ => rfl)
      (fun _ _ _ _ => rfl) fun _ _ => rfl) r, fun n h1 h8 hn => ?_, ?_, (aMem.trans xMem).trans mem,
      field Cpc.jr (fun _ _ => rfl) (fun _ _ _ _ => rfl) fun _ _ => rfl,
      field Cpc.ca1 (fun _ _ => rfl) (fun _ _ _ _ => rfl) fun _ _ => rfl⟩
    · rw [tPipe]
      show b.unreset.voidedSlot.x1.nextCr = b.nextCr
      unfold State.nextCr
      rw [xPipe, pipe]
      rfl
    · have h6 : n ≠ 6 := fun q => hn (by simp [q])
      have h7 : n ≠ 7 := fun q => hn (by simp [q])
      rw [ind n h1, State.indAt_x1 _ h1, if_neg h7, if_neg h6, indV]
    · rw [ind 6 (by decide), State.indAt_x1 _ (by decide), if_neg (by decide), if_pos rfl, indV, pipe]
      rfl
  · intro s u hb b holds hr hu
    have running := step_of_running hb hr hu
    have held : b.runCycle = .next b.held → holds := fun h => by
      obtain ⟨pipe, mem, ind⟩ := b.held_spec
      obtain ⟨cpc, older, same⟩ := b.held_cpc
      exact ⟨b.held, running.trans h, pipe, mem, ind, cpc, older, same⟩
    exact ⟨fun i hd hn hk hl taken => held (State.runCycle_of_busWait (State.busWait_of_needs hd hn hk hl taken)),
      fun i hw hk hd hh h => held (State.runCycle_of_waits hw hk hd (State.waits_of hh h))⟩

/-! ### Resets -/

/-- Control Array 1 after a reset: TI is 1, bits 9, 10, 12, 13 and 14 are 0, the skip count stays (10 R90). -/
theorem ca1_reset (c : Byte) : let x := (c &&& 0xC0#8) ||| 0x04#8
    bitAt x 3 = true ∧ (∀ n ∈ [1, 2, 4, 5, 6], bitAt x n = false) ∧ bitAt x 8 = bitAt c 8 ∧ bitAt x 7 = bitAt c 7 := by
  intro x
  have bit : ∀ n, bitAt x n = ((bitAt c n && bitAt 0xC0#8 n) || bitAt 0x04#8 n) := fun n => by
    rw [show x = (c &&& 0xC0#8) ||| 0x04#8 from rfl, bitAt_or, bitAt_and]
  refine ⟨?_, fun n hn => ?_, ?_, ?_⟩
  · rw [bit]
    exact Bool.or_true _
  · have mask : ∀ n ∈ [1, 2, 4, 5, 6], bitAt 0xC0#8 n = false ∧ bitAt 0x04#8 n = false := by decide
    rw [bit, (mask n hn).1, (mask n hn).2, Bool.and_false, Bool.or_false]
  · rw [bit]
    exact (Bool.or_false _).trans (Bool.and_true _)
  · rw [bit]
    exact (Bool.or_false _).trans (Bool.and_true _)

/-- The control bits and the indicators after a cycle with PMRST. -/
theorem State.resetActions_bits (s : State) :
    s.resetActions.ca1At 11 = true ∧ (∀ n ∈ [9, 10, 12, 13, 14], s.resetActions.ca1At n = false) ∧
    s.resetActions.ca1At 16 = s.ca1At 16 ∧ s.resetActions.ca1At 15 = s.ca1At 15 ∧
    s.resetActions.indAt 7 = false ∧ s.resetActions.indAt 8 = false ∧ (∀ n, 1 ≤ n → n ≤ 5 → s.resetActions.indAt n = s.indAt n) ∧
    s.resetActions.indAt 6 = s.pipe.dueMatch.getD (s.indAt 6) := by
  have ca1 : s.writeMatch.cpc.ca1 = s.cpc.ca1 := (congrArg Cpc.ca1 s.writeMatch_cpc :)
  have value : s.resetActions.cpc.ca1 = (s.cpc.ca1 &&& 0xC0#8) ||| 0x04#8 := by
    rw [← ca1]
    rfl
  obtain ⟨ti, zero, top, next⟩ := ca1_reset s.cpc.ca1
  rw [← value] at ti zero top next
  have off : ∀ n ∈ [9, 10, 12, 13, 14], s.resetActions.ca1At n = false := fun n hn => zero (n - 8) (by
    revert n
    decide)
  have ind : ∀ n, 1 ≤ n → n ≤ 7 → s.resetActions.indAt n = if 7 = n then false else s.writeMatch.indAt n := fun n h1 h7 => by
    rw [State.indAt_of_le_seven _ h1 h7, State.indAt_of_le_seven _ h1 h7]
    exact bitAt_putBit s.writeMatch.cpc.ind 7 n false (by decide) (by decide) h1
  refine ⟨ti, off, top, next, ind 7 (by decide) (by decide), ?_, fun n h1 h5 => ?_, ?_⟩
  · rw [State.indAt_eight]
    exact off 9 (by decide)
  · rw [ind n h1 (by omega), if_neg (by omega), s.indAt_writeMatch n h1, if_neg (by omega)]
  · rw [ind 6 (by decide) (by decide), if_neg (by decide), s.indAt_writeMatch 6 (by decide), if_pos rfl]

/-- The rest of the CPC and memory after a cycle with PMRST. -/
theorem State.resetActions_keeps (s : State) : s.resetActions.mem = s.mem ∧
    { s.resetActions.cpc with ca1 := s.cpc.ca1, ind := s.cpc.ind, fifoRun := s.cpc.fifoRun, fetch := s.cpc.fetch } = s.cpc := by
  obtain ⟨mem, cpc⟩ : s.writeMatch.mem = s.mem ∧ { s.writeMatch.cpc with ind := s.cpc.ind } = s.cpc :=
    ⟨s.writeMatch_mem, s.writeMatch_cpc⟩
  refine ⟨mem, ?_⟩
  exact (congrArg (fun c : Cpc => { c with ca1 := s.cpc.ca1, fifoRun := s.cpc.fifoRun, fetch := s.cpc.fetch }) cpc :)

/-- The values of a reset hold after a cycle with PMRST (10 R90; 11 R143; 70 R760, R762). -/
theorem State.resetActions_hasReset (s : State) : s.resetActions.HasReset := by
  obtain ⟨ti, zero, -, -, seven, eight, -, -⟩ := s.resetActions_bits
  refine ⟨rfl, rfl, rfl, rfl, rfl, rfl, ti, zero, seven, eight, fun h => ?_⟩
  have atc : s.resetActions.atc = s.writeMatch.atc.resetBy s.writeMatch.plat.resetClearsRr := if_pos h
  unfold State.reqsHolds
  rw [atc]
  exact ⟨bitAt_putBit s.writeMatch.atc.ita 16 16 true (by decide) (by decide) (by decide), rfl, rfl, rfl, rfl, rfl, rfl, rfl, rfl⟩

/-- The first cycle of a reset with a voided slot: the slot is voided, or held by the interpret stage. -/
theorem State.resetSlot_of_skip {s : State} (h : s.pipe.skip ≠ 0#2) :
    s.resetSlot = .next s ∨ s.resetSlot = .next s.voidedSlot := by
  unfold State.resetSlot
  cases s.busWait
  · right
    rw [State.slot_of_skip h]
    rfl
  · exact .inl rfl

/-- A halted FIFO after the next address: memory and the general registers stay. -/
theorem State.haltFifo_spec (s : State) : s.haltFifo.mem = s.mem ∧ s.haltFifo.cpc.rsu = s.cpc.rsu ∧
    (s.cpc.fifoRun = true → s.pipe.fifoShifted = false →
      s.haltFifo.cpc.eari = s.cpc.iari ∧ s.haltFifo.cpc.iari = s.cpc.cri ∧ s.haltFifo.cpc.cri = s.nextCr) := by
  obtain ⟨runs, -, clocked⟩ := s.fifoClock_spec
  exact ⟨(congrArg State.mem clocked :), (congrArg (fun x : State => x.cpc.rsu) clocked :), runs⟩

/-- The first cycle of a reset, from the state after its slot. -/
theorem State.haltFifo_resetActions (s : State) : s.haltFifo.resetActions.mem = s.mem ∧
    (∀ r, s.haltFifo.resetActions.rsu r = s.rsu r) ∧ (s.cpc.fifoRun = true → s.pipe.fifoShifted = false →
      s.haltFifo.resetActions.cpc.eari = s.cpc.iari ∧ s.haltFifo.resetActions.cpc.iari = s.cpc.cri ∧
      s.haltFifo.resetActions.cpc.cri = s.nextCr) := by
  obtain ⟨mem, cpc⟩ := s.haltFifo.resetActions_keeps
  obtain ⟨haltMem, haltRsu, runs⟩ := s.haltFifo_spec
  refine ⟨mem.trans haltMem, fun r => State.rsu_of_cpc ((congrArg Cpc.rsu cpc :).trans haltRsu) r, fun run shifted => ?_⟩
  obtain ⟨eari, iari, cri⟩ := runs run shifted
  exact ⟨(congrArg Cpc.eari cpc :).trans eari, (congrArg Cpc.iari cpc :).trans iari, (congrArg Cpc.cri cpc :).trans cri⟩

/-- Settles O58: the reset writes its values whatever the slot left; the first cycle halts the FIFO before. -/
theorem resetState : Obligations.ResetState := by
  refine ⟨fun s b hb hr held => ?_, fun s b hb hr first => ⟨fun t ht => ?_, fun hu hk => ?_⟩,
    rfl, by decide, rfl, rfl, rfl, rfl, by decide, by decide, by decide, by decide, fun _ => by decide⟩
  · have run : step s = .next b.resetActions := by
      rw [step_of_begin hb]
      unfold State.cycle State.resetCycle
      rw [hr, held]
      rfl
    obtain ⟨-, -, s16, s15, -, -, low, six⟩ := b.resetActions_bits
    obtain ⟨mem, cpc⟩ := b.resetActions_keeps
    exact ⟨_, run, b.resetActions_hasReset, s16, s15, low, six, mem, cpc⟩
  · have run : step s = if b.ca1At 13 then .refused .nonUserMode else andThen b.resetSlot fun t => .next t.haltFifo.resetActions := by
      rw [step_of_begin hb]
      unfold State.cycle State.resetCycle
      rw [hr, first]
      rfl
    rw [run] at ht
    split at ht
    · cases ht
    · cases slot : b.resetSlot with
      | next v =>
        rw [slot] at ht
        cases ht
        exact State.resetActions_hasReset _
      | fault r =>
        rw [slot] at ht
        cases ht
      | refused r =>
        rw [slot] at ht
        cases ht
  · have run : step s = andThen b.resetSlot fun t => .next t.haltFifo.resetActions := by
      rw [step_of_begin hb]
      unfold State.cycle State.resetCycle
      rw [hr, first, hu]
      rfl
    rcases State.resetSlot_of_skip hk with slot | slot
    · obtain ⟨mem, regs, fifo⟩ := b.haltFifo_resetActions
      rw [slot] at run
      exact ⟨_, run, mem, regs, fifo⟩
    · obtain ⟨mem, regs, fifo⟩ := b.voidedSlot.haltFifo_resetActions
      obtain ⟨pipe, vMem, cpc, -⟩ := b.voidedSlot_keeps
      have vRun : b.voidedSlot.cpc.fifoRun = b.cpc.fifoRun := (congrArg Cpc.fifoRun cpc :)
      have vIari : b.voidedSlot.cpc.iari = b.cpc.iari := (congrArg Cpc.iari cpc :)
      have vCri : b.voidedSlot.cpc.cri = b.cpc.cri := (congrArg Cpc.cri cpc :)
      have vNext : b.voidedSlot.nextCr = b.nextCr := by
        unfold State.nextCr
        rw [pipe]
      rw [slot] at run
      refine ⟨_, run, mem.trans vMem, fun r => (regs r).trans (State.rsu_of_cpc (congrArg Cpc.rsu cpc :) r), fun on still => ?_⟩
      rw [vRun, vIari, vCri, vNext, pipe] at fifo
      exact fifo on still

end Sys2Proof.Machine
end

section
/-! What a memory cycle reads, writes and keeps: fetches and stores, from the ATC's side and from the CPC's (11, 20, 40). -/

namespace Sys2Proof.Machine

/-! ### What a memory cycle may change in the ATC -/

/-- Of the ATC only the sequencer, the Syndrome Register, the data latches and the error outputs may have changed. -/
def MemoryCycle (s t : State) : Prop :=
  { t.atc with
    seq := s.atc.seq
    seqGoesOn := s.atc.seqGoesOn
    cpcInitiated := s.atc.cpcInitiated
    syn := s.atc.syn
    synEr := s.atc.synEr
    pd := s.atc.pd
    md := s.atc.md
    memErr := s.atc.memErr
    mdee := s.atc.mdee } = s.atc

/-- The ATC as it was. -/
theorem MemoryCycle.of_eq {s t : State} (h : t.atc = s.atc) : MemoryCycle s t := by
  unfold MemoryCycle
  rw [h]

/-- Two memory cycles in a row. -/
theorem MemoryCycle.trans {s t u : State} (h : MemoryCycle s t) (g : MemoryCycle t u) : MemoryCycle s u := by
  unfold MemoryCycle at h g ⊢
  rw [← h, ← g]

/-- What a memory cycle cannot change. -/
theorem MemoryCycle.field {s t : State} (h : MemoryCycle s t) {α : Type} (f : Atc → α)
    (hf : ∀ a q b c x e p m y z, f { a with
      seq := q, seqGoesOn := b, cpcInitiated := c, syn := x, synEr := e, pd := p, md := m, memErr := y, mdee := z } = f a) :
    f t.atc = f s.atc := (hf t.atc _ _ _ _ _ _ _ _ _).symm.trans (congrArg f h)

/-- A memory cycle has no business with the controls. -/
theorem MemoryCycle.controls {s t : State} (h : MemoryCycle s t) : KeepsAtcControls s t :=
  ⟨h.field Atc.ca2 fun _ _ _ _ _ _ _ _ _ _ => rfl, h.field Atc.imr fun _ _ _ _ _ _ _ _ _ _ => rfl,
    h.field Atc.itmr fun _ _ _ _ _ _ _ _ _ _ => rfl, h.field Atc.tod fun _ _ _ _ _ _ _ _ _ _ => rfl,
    h.field Atc.bin fun _ _ _ _ _ _ _ _ _ _ => rfl, h.field Atc.binFull fun _ _ _ _ _ _ _ _ _ _ => rfl,
    h.field Atc.psr fun _ _ _ _ _ _ _ _ _ _ => rfl, h.field Atc.pmr fun _ _ _ _ _ _ _ _ _ _ => rfl,
    h.field Atc.synLock fun _ _ _ _ _ _ _ _ _ _ => rfl⟩

/-- Two operations that keep the controls. -/
theorem KeepsAtcControls.trans {s t u : State} (h : KeepsAtcControls s t) (g : KeepsAtcControls t u) : KeepsAtcControls s u := by
  obtain ⟨h1, h2, h3, h4, h5, h6, h7, h8, h9⟩ := h
  obtain ⟨g1, g2, g3, g4, g5, g6, g7, g8, g9⟩ := g
  exact ⟨g1.trans h1, g2.trans h2, g3.trans h3, g4.trans h4, g5.trans h5, g6.trans h6, g7.trans h7, g8.trans h8, g9.trans h9⟩

/-- An ATC register replaced by its own value, or any other update of the ATC that a memory cycle makes without an ATC. -/
theorem MemoryCycle.ite {s t u : State} {c : Prop} [Decidable c] (h : MemoryCycle s t) (g : MemoryCycle s u) :
    MemoryCycle s (if c then t else u) := by
  split
  · exact h
  · exact g

/-- The error check reads. -/
theorem State.eccRead_cycle (s : State) (l : Bool) (pa : Nat) : MemoryCycle s (s.eccRead l pa).2 := by
  unfold State.eccRead
  exact MemoryCycle.ite rfl rfl

/-- A word fetched. -/
theorem State.fetchWord_cycle (s : State) (t : Target) : MemoryCycle s (s.fetchWord t).2 := by
  have kept := congrArg State.atc (s.fetchWord_keeps t)
  dsimp only at kept
  unfold MemoryCycle
  generalize (s.fetchWord t).2.atc = a at kept
  rw [← kept]

/-- The error outputs. -/
theorem State.signalError_cycle (s : State) (e : EccStatus) : MemoryCycle s (s.signalError e) := rfl

/-- A word written. -/
theorem State.writeWord_cycle (s : State) (pa : Nat) (d : Word) : MemoryCycle s (s.writeWord pa d) := by
  unfold State.writeWord
  split
  · exact .of_eq rfl
  · unfold MemoryCycle
    dsimp only
    split <;> rfl

/-- A store as its parts: the word written at once, or the read, the error outputs and the merged word; what every part does, the
store does. -/
theorem State.storeWord_induction {P : State → State → Prop} (trans : ∀ {s t u}, P s t → P t u → P s u)
    (latch : ∀ (s : State) a, P s { s with atc := { s.atc with pd := a } }) (none : ∀ s, P s s)
    (read : ∀ (s : State) l pa, P s (s.eccRead l pa).2) (data : ∀ (s : State) a, P s { s with atc := { s.atc with md := a } })
    (signal : ∀ (s : State) e, P s (s.signalError e)) (write : ∀ (s : State) pa d, P s (s.writeWord pa d))
    (s : State) (t : Target) (tags : Digit) (d : Word) : P s (s.storeWord t tags d) := by
  unfold State.storeWord
  dsimp only
  generalize hv : (if s.plat.atcPresent = true then { s with atc := { s.atc with pd := d } } else s : State) = v
  have latched : P s v := by
    rw [← hv]
    split
    · exact latch s d
    · exact none s
  split
  · exact latched
  · split
    · exact trans latched (write v _ d)
    · have got := trans latched (read v v.partialReadLoads (v.physical t))
      generalize v.eccRead v.partialReadLoads (v.physical t) = r at got
      obtain ⟨⟨old, e⟩, u⟩ := r
      have noted : P s ((if u.plat.atcPresent = true then { u with atc := { u.atc with md := old } } else u : State).signalError e) := by
        refine trans (trans got ?_) (signal _ e)
        dsimp only
        split
        · exact data u old
        · exact none u
      dsimp only
      split
      · exact noted
      · exact trans noted (write _ _ _)

/-- A word stored. -/
theorem State.storeWord_cycle (s : State) (t : Target) (tags : Digit) (d : Word) : MemoryCycle s (s.storeWord t tags d) :=
  State.storeWord_induction (P := MemoryCycle) MemoryCycle.trans (fun _ _ => rfl) (fun _ => rfl) State.eccRead_cycle (fun _ _ => rfl)
    State.signalError_cycle State.writeWord_cycle s t tags d

/-- A store to an address beyond the memory changes no byte (20 R211). -/
theorem State.storeWord_beyond (s : State) (t : Target) (tags : Digit) (d : Word) (h : s.beyond t = true) :
    (s.storeWord t tags d).mem = s.mem := by
  have far : ∀ v : State, v.plat = s.plat → v.beyond t = true := fun v hv => by
    rw [← h]
    unfold State.beyond State.memWords
    rw [hv]
  unfold State.storeWord
  dsimp only
  rw [if_pos (far _ (by split <;> rfl))]
  split <;> rfl

/-- A store leaves the bytes outside its word, in any memory. -/
theorem State.storeWord_outside (s : State) (t : Target) (tags : Digit) (d : Word) (n : Nat)
    (h : n < 4 * s.physical t ∨ 4 * s.physical t + 4 ≤ n) : (s.storeWord t tags d).mem.byte n = s.mem.byte n := by
  have written : ∀ (u : State) (w : Word), u.plat = s.plat → (u.writeWord (u.physical t) w).mem.byte n = u.mem.byte n := fun u w hu => by
    have place : u.physical t = s.physical t := by
      unfold State.physical State.memWords
      rw [hu]
    rw [State.byte_writeWord, place]
    exact Memory.byte_setWord_ne _ _ _ _ h
  unfold State.storeWord
  dsimp only
  generalize hv : (if s.plat.atcPresent = true then { s with atc := { s.atc with pd := d } } else s : State) = v
  have vMem : v.mem = s.mem := by
    rw [← hv]
    split <;> rfl
  have vPlat : v.plat = s.plat := by
    rw [← hv]
    split <;> rfl
  split
  · rw [vMem]
  · split
    · rw [written v d vPlat, vMem]
    · obtain ⟨mem, -, -, plat⟩ := v.eccRead_keeps v.partialReadLoads (v.physical t)
      generalize v.eccRead v.partialReadLoads (v.physical t) = r at mem plat
      obtain ⟨⟨old, e⟩, u⟩ := r
      dsimp only at mem plat ⊢
      generalize hx : (if u.plat.atcPresent = true then { u with atc := { u.atc with md := old } } else u : State) = x
      have xMem : x.mem = s.mem := by
        rw [← hx]
        split <;> exact mem.trans vMem
      have xPlat : x.plat = s.plat := by
        rw [← hx]
        split <;> exact plat.trans vPlat
      split
      · exact congrArg (fun m : Memory => m.byte n) xMem
      · rw [written (x.signalError e) _ xPlat]
        exact congrArg (fun m : Memory => m.byte n) xMem

/-- A state of the sequencer. -/
theorem State.sequence_cycle (s : State) (tags : Digit) (b : Bool) : MemoryCycle s (s.sequence tags b) := rfl

/-! ### What an operation sees of memory -/

/-- Memory and what checks it are as before. -/
def SeesMemory (s t : State) : Prop := t.mem = s.mem ∧ t.plat = s.plat ∧ t.atc.ca2 = s.atc.ca2

/-- The Syndrome Register, its error bit and its lock are as before. -/
def SameSyndrome (s t : State) : Prop := t.atc.syn = s.atc.syn ∧ t.atc.synEr = s.atc.synEr ∧ t.atc.synLock = s.atc.synLock

/-- A target lies in the same word of the same memory. -/
theorem SeesMemory.place {s t : State} (h : SeesMemory s t) (w : Target) : t.beyond w = s.beyond w ∧ t.physical w = s.physical w := by
  obtain ⟨-, plat, -⟩ := h
  unfold State.beyond State.physical State.memWords
  rw [plat]
  exact ⟨rfl, rfl⟩

/-- A word is checked alike. -/
theorem SeesMemory.checked {s t : State} (h : SeesMemory s t) (pa : Nat) : t.checked pa = s.checked pa := by
  obtain ⟨mem, plat, ca2⟩ := h
  unfold State.checked State.ca2At
  rw [mem, plat, ca2]

/-- A store from a state that differs outside memory and the Syndrome Register. -/
theorem StoresAt.from {s v t : State} {pa : Nat} {tags : Digit} {d : Word} (h : StoresAt v t pa tags d) (sees : SeesMemory s v)
    (syndrome : SameSyndrome s v) : StoresAt s t pa tags d := by
  have checked := sees.checked pa
  obtain ⟨mem, plat, -⟩ := sees
  obtain ⟨syn, synEr, synLock⟩ := syndrome
  simp only [StoresAt, LatchesStore, State.lockedCheck, State.checkAt, State.Lost, State.Readable, checked, mem, plat, syn, synEr,
    synLock] at h ⊢
  exact h

/-- A store seen in a later state with the same memory and ATC. -/
theorem StoresAt.to {s t u : State} {pa : Nat} {tags : Digit} {d : Word} (h : StoresAt s t pa tags d) (mem : u.mem = t.mem)
    (atc : u.atc = t.atc) : StoresAt s u pa tags d := by
  unfold StoresAt LatchesStore at h ⊢
  rw [mem, atc]
  exact h

/-- A fetch seen in a later state with the same word outstanding. -/
theorem WillDeliver.to {s t u : State} {pa : Nat} (h : WillDeliver s t pa) (fetch : u.cpc.fetch = t.cpc.fetch) : WillDeliver s u pa := by
  unfold WillDeliver at h ⊢
  rw [fetch]
  exact h

/-- The word that a store within the memory leaves, from a state that sees the same memory. -/
theorem State.storeWord_from {s v : State} (sees : SeesMemory s v) (syndrome : SameSyndrome s v) (t : Target) (tags : Digit) (d : Word) :
    (s.beyond t = true → KeepsMemory s (v.storeWord t tags d)) ∧
    (s.mem.wf = true → s.beyond t = false → StoresAt s (v.storeWord t tags d) (s.physical t) tags d) ∧
    ∀ n, n < 4 * s.physical t ∨ 4 * s.physical t + 4 ≤ n → (v.storeWord t tags d).mem.byte n = s.mem.byte n := by
  obtain ⟨beyond, physical⟩ := sees.place t
  have mem : v.mem = s.mem := sees.1
  rw [← beyond, ← physical, ← mem]
  refine ⟨fun far a => ?_, fun wf near => ?_, fun n hn => v.storeWord_outside t tags d n hn⟩
  · rw [v.storeWord_beyond t tags d far, mem]
  · exact (v.storeWord_stores t tags d wf near).from sees syndrome

/-- A word fetched within the memory, from a state that sees the same memory. -/
theorem State.fetchWord_delivers {s v u : State} (sees : SeesMemory s v) (t : Target) (near : s.beyond t = false)
    (fetch : u.cpc.fetch = some { data := some (v.fetchWord t).1, age := 0 }) : WillDeliver s u (s.physical t) := by
  obtain ⟨beyond, physical⟩ := sees.place t
  obtain ⟨status, word⟩ := v.fetchWord_word t (beyond.trans near)
  rw [physical, sees.checked] at status
  rw [physical] at word
  unfold State.Lost at word
  rw [sees.checked] at word
  refine ⟨_, fetch, status, word, fun readable => ?_⟩
  have plain : s.checked (s.physical t) = (s.mem.word (s.physical t), .ok) := s.eccRead_readable true _ readable
  rw [plain] at status word
  refine ⟨status, fun b => ?_⟩
  rw [word nofun]
  exact Memory.byteOf_word _ _ _

/-! ### What the CPC keeps -/

/-- The pipeline, the platform, the breakpoint hardware and the inputs are as before. -/
def KeepsMachine (s t : State) : Prop :=
  t.pipe = s.pipe ∧ t.plat = s.plat ∧ t.bkpt = s.bkpt ∧ t.inputs = s.inputs ∧ t.now = s.now

/-- Two operations that keep the machine. -/
theorem KeepsMachine.trans {s t u : State} (h : KeepsMachine s t) (g : KeepsMachine t u) : KeepsMachine s u := by
  obtain ⟨h1, h2, h3, h4, h5⟩ := h
  obtain ⟨g1, g2, g3, g4, g5⟩ := g
  exact ⟨g1.trans h1, g2.trans h2, g3.trans h3, g4.trans h4, g5.trans h5⟩

/-- A message that changes only the ATC. -/
theorem OnlyAtc.machine {s t : State} (h : OnlyAtc s t) : KeepsMachine s t := by
  obtain ⟨-, pipe, -, plat, bkpt, inputs, now⟩ := h
  exact ⟨pipe, plat, bkpt, inputs, now⟩

/-- The frame of a memory instruction, from its parts. -/
theorem KeepsMachine.outsideMemory {s t : State} (h : KeepsMachine s t)
    (cpc : { t.cpc with rsu := s.cpc.rsu, sr := s.cpc.sr, wtr := s.cpc.wtr, m6wt := s.cpc.m6wt, fetch := s.cpc.fetch } = s.cpc) :
    KeepsOutsideMemory s t := by
  obtain ⟨pipe, plat, bkpt, inputs, now⟩ := h
  unfold KeepsOutsideMemory
  rw [pipe, plat, bkpt, inputs, now, cpc]

/-- A fetched word going by. -/
theorem State.dropFetch_machine (s : State) : KeepsMachine s s.dropFetch := by
  obtain ⟨-, -, -, -, pipe, plat, bkpt, inputs, now, -⟩ := s.dropFetch_keeps
  exact ⟨pipe, plat, bkpt, inputs, now⟩

/-- A fetched word going by leaves what an operation sees of memory. -/
theorem State.dropFetch_sees (s : State) : SeesMemory s s.dropFetch ∧ SameSyndrome s s.dropFetch := by
  obtain ⟨-, ⟨ca2, -, -, -, -, -, -, -, synLock⟩, -, mem, -, plat, -⟩ := s.dropFetch_keeps
  obtain ⟨atc, -⟩ := s.dropFetch_atc
  exact ⟨⟨mem, plat, ca2⟩, (congrArg Atc.syn atc :), (congrArg Atc.synEr atc :), synLock⟩

/-! ### Real messages -/

/-- The ATC as a real fetch begins: `RAR` has the address word (11 R134). -/
def State.startFetch (s : State) (byCpc : Bool) (bus : Word) : State :=
  ((if s.plat.atcPresent then { s.atcReceived with atc := { s.atcReceived.atc with rar := bus } } else s.atcReceived : State).setSeq
    .realFetch byCpc)

/-- A real fetch: the ATC begins it, then the word is read. -/
theorem State.realFetch_eq (s : State) (byCpc : Bool) (bus : Word) (t : Target) :
    s.realFetch byCpc bus t = (s.startFetch byCpc bus).fetchWord t := rfl

/-- The beginning of a real fetch: `RAR`, the sequencer and the hazard of the sixteenth RR bit. -/
theorem State.startFetch_spec (s : State) (byCpc : Bool) (bus : Word) :
    s.startFetch byCpc bus = { s with atc := { s.atc with
      rrResetting := false
      rar := if s.plat.atcPresent then bus else s.atc.rar
      seq := .realFetch
      seqGoesOn := false
      cpcInitiated := byCpc } } := by
  unfold State.startFetch
  split <;> rfl

/-- The beginning of a real store. -/
def State.startStore (s : State) (byCpc : Bool) (tags : Digit) : State :=
  (s.atcReceived).setSeq (if tags = 0xF#4 then .realFullStore else .realPartialStore) byCpc

/-- A real store: the ATC begins it, then the word is stored. -/
theorem State.realStore_eq (s : State) (byCpc : Bool) (t : Target) (tags : Digit) (d : Word) :
    s.realStore byCpc t tags d = (s.startStore byCpc tags).storeWord t tags d := rfl

/-- The word of a fetch of the CPC. -/
def State.cpcFetched (s : State) (t : Target) : Fetched := ((s.dropFetch.startFetch true t.busWord).fetchWord t).1

/-- A real fetch of the CPC: the word outstanding, memory, the controls and everything else (20 R197; 40 R361). -/
theorem State.cpcRealFetch_spec (s : State) (t : Target) :
    (s.cpcRealFetch t).cpc = { s.cpc with fetch := some { data := some (s.cpcFetched t), age := 0 } } ∧
    (s.cpcRealFetch t).mem = s.mem ∧ KeepsMachine s (s.cpcRealFetch t) ∧ KeepsAtcControls s (s.cpcRealFetch t) ∧
    (s.beyond t = false → WillDeliver s (s.cpcRealFetch t) (s.physical t)) := by
  obtain ⟨-, controls, dropCpc, dropMem, -⟩ := s.dropFetch_keeps
  obtain ⟨dropSees, -⟩ := s.dropFetch_sees
  have e : s.cpcRealFetch t = ((s.dropFetch.startFetch true t.busWord).fetchWord t).2.pendFetch (some (s.cpcFetched t)) := rfl
  have start := s.dropFetch.startFetch_spec true t.busWord
  have word : s.cpcFetched t = ((s.dropFetch.startFetch true t.busWord).fetchWord t).1 := rfl
  generalize s.dropFetch.startFetch true t.busWord = v at *
  have sees : SeesMemory s v := by
    obtain ⟨mem, plat, ca2⟩ := dropSees
    rw [start]
    exact ⟨mem, plat, ca2⟩
  have begun : KeepsAtcControls s v := by
    rw [start]
    exact controls
  have vMachine : KeepsMachine s v := by
    rw [start]
    exact s.dropFetch_machine
  have vCpc : v.cpc = { s.cpc with fetch := none } := by
    rw [start]
    exact dropCpc
  have only := v.fetchWord_onlyAtc t
  have cycle := v.fetchWord_cycle t
  have vMem : v.mem = s.mem := sees.1
  obtain ⟨cpc, -, mem, -⟩ := v.fetchWord_onlyAtc t
  have fetch : (s.cpcRealFetch t).cpc.fetch = some { data := some (v.fetchWord t).1, age := 0 } := by
    rw [e, word]
    rfl
  refine ⟨?_, ?_, ?_, ?_, fun near => State.fetchWord_delivers sees t near fetch⟩
  · rw [e, State.pendFetch_cpc, cpc, vCpc]
  · rw [e]
    exact mem.trans vMem
  · rw [e]
    exact vMachine.trans only.machine
  · rw [e]
    exact begun.trans cycle.controls

/-- A real store of the CPC (20 R197, R203, R211). -/
theorem State.cpcRealStore_spec (s : State) (t : Target) (tags : Digit) (d : Word) :
    (s.cpcRealStore t tags d).cpc = { s.cpc with fetch := none } ∧ KeepsMachine s (s.cpcRealStore t tags d) ∧
    KeepsAtcControls s (s.cpcRealStore t tags d) ∧ (s.beyond t = true → KeepsMemory s (s.cpcRealStore t tags d)) ∧
    (s.mem.wf = true → s.beyond t = false → StoresAt s (s.cpcRealStore t tags d) (s.physical t) tags d) ∧
    ∀ n, n < 4 * s.physical t ∨ 4 * s.physical t + 4 ≤ n → (s.cpcRealStore t tags d).mem.byte n = s.mem.byte n := by
  obtain ⟨-, controls, dropCpc, -⟩ := s.dropFetch_keeps
  obtain ⟨sees, syndrome⟩ := s.dropFetch_sees
  have e : s.cpcRealStore t tags d = (s.dropFetch.startStore true tags).storeWord t tags d := rfl
  obtain ⟨cpc, pipe, plat, bkpt, inputs, now⟩ := (s.dropFetch.startStore true tags).storeWord_keeps t tags d
  have cycle := (s.dropFetch.startStore true tags).storeWord_cycle t tags d
  have stored := State.storeWord_from (v := s.dropFetch.startStore true tags) sees syndrome t tags d
  rw [e]
  have machine : KeepsMachine (s.dropFetch.startStore true tags) ((s.dropFetch.startStore true tags).storeWord t tags d) :=
    ⟨pipe, plat, bkpt, inputs, now⟩
  exact ⟨cpc.trans dropCpc, s.dropFetch_machine.trans (KeepsMachine.trans ⟨rfl, rfl, rfl, rfl, rfl⟩ machine),
    controls.trans (KeepsAtcControls.trans (t := s.dropFetch.startStore true tags) ⟨rfl, rfl, rfl, rfl, rfl, rfl, rfl, rfl, rfl⟩
      cycle.controls), stored⟩

end Sys2Proof.Machine
end

section
/-! What the ATC does by itself: the end of a cycle, a refresh, the periods of TODOSC (11, 20, 60). -/

namespace Sys2Proof.Machine

/-! ### The end of a cycle -/

/-- The end of a cycle after X1, an entry or not: the ATC, memory, the general registers and the indicators I1 to I7 stay. -/
theorem State.finish_keeps (s : State) (e : Option Entry) : (s.finish e).atc = s.x1.atc ∧ (s.finish e).mem = s.x1.mem ∧
    (s.finish e).cpc.ind = s.x1.cpc.ind ∧ (s.finish e).cpc.rsu = s.x1.cpc.rsu := by
  cases e with
  | none =>
    obtain ⟨-, -, mem, atc, -⟩ := s.x1.advance_spec
    exact ⟨atc, mem, s.x1.cpc_advance Cpc.ind fun _ _ _ _ => rfl, s.x1.cpc_advance Cpc.rsu fun _ _ _ _ => rfl⟩
  | some e =>
    obtain ⟨cpc, mem, atc, -⟩ := s.x1.enter_spec e
    have kept := fun {α : Type} (f : State → α) => s.x1.kept_of_entry e f
    exact ⟨atc.trans (kept State.atc fun _ _ _ _ _ _ => rfl), mem.trans (kept State.mem fun _ _ _ _ _ _ => rfl),
      (congrArg Cpc.ind cpc).trans (kept (fun x => x.cpc.ind) fun _ _ _ _ _ _ => rfl),
      (congrArg Cpc.rsu cpc).trans (kept (fun x => x.cpc.rsu) fun _ _ _ _ _ _ => rfl)⟩

/-- The match is held off exactly by a write of a timer or of `ITA` and during a fetch operation (11 R140; 60 R704). -/
theorem State.todInhibited_iff (s : State) : s.todInhibited = true ↔ s.atc.todHold = true ∨
    (s.atc.seq = .realFetch ∨ s.atc.seq = .virtualFetch ∨ s.atc.seq = .verFetch) ∨
      ∃ w n, s.cpc.fetch = some { data := some w, age := n } := by
  have states : s.atc.seq.isFetch = true ↔ s.atc.seq = .realFetch ∨ s.atc.seq = .virtualFetch ∨ s.atc.seq = .verFetch := by
    cases s.atc.seq <;> simp [AtcSeq.isFetch]
  have word : (match s.cpc.fetch with | some f => f.data.isSome | none => false) = true ↔
      ∃ w n, s.cpc.fetch = some { data := some w, age := n } := by
    cases h : s.cpc.fetch with
    | none => simp
    | some f =>
      obtain ⟨data, age⟩ := f
      cases data <;> simp
  unfold State.todInhibited
  rw [Bool.or_eq_true, Bool.or_eq_true, states, or_assoc]
  exact or_congr Iff.rfl (or_congr Iff.rfl word)

/-- What X1 does in the ATC (60 R704, R712; 11 R124). -/
theorem State.atcX1_spec (s : State) (present : s.plat.atcPresent = true) :
    (∀ n, 1 ≤ n → n ≤ 16 → bitAt s.atcX1.atc.ita n = (bitAt s.atc.ita n ||
      ((s.atc.tod == s.atc.itmr && !s.todInhibited) && decide (n = 4) || s.now.spint && decide (n = 12)) && !bitAt s.atc.imr n)) ∧
    (∀ n, 1 ≤ n → n ≤ 16 → s.atcX1.ca2At n = if n = 1 ∧ s.now.privX0 = true then s.now.privX1 else s.ca2At n) ∧
    { s.atcX1.atc with ita := s.atc.ita, ca2 := s.atc.ca2 } = s.atc := by
  have posted : ∀ n, 1 ≤ n → n ≤ 16 →
      bitAt (s.post (itaBit 4 (s.atc.tod == s.atc.itmr && !s.todInhibited) ||| itaBit 12 s.now.spint)).atc.ita n =
        (bitAt s.atc.ita n || ((s.atc.tod == s.atc.itmr && !s.todInhibited) && decide (n = 4) ||
          s.now.spint && decide (n = 12)) && !bitAt s.atc.imr n) := fun n h1 h16 => by
    rw [State.bitAt_post _ _ _ h1 h16, bitAt_or, bitAt_itaBit _ _ _ (by decide) h1 h16, bitAt_itaBit _ _ _ (by decide) h1 h16]
  unfold State.atcX1
  rw [if_pos present]
  dsimp only
  split
  · next priv =>
    refine ⟨posted, fun n h1 h16 => ?_, rfl⟩
    have put := bitAt_putBit s.atc.ca2 1 n s.now.privX1 (by decide) (by decide) h1
    have priv' : s.now.privX0 = true := priv
    simp only [priv', and_true, eq_comm (a := n)]
    exact put
  · next priv =>
    have priv' : ¬s.now.privX0 = true := priv
    exact ⟨posted, fun n _ _ => by rw [if_neg fun h => priv' h.2]; rfl, rfl⟩

/-- X1 of the ATC behind the late match, which touches nothing that it reads. -/
theorem State.writeMatch_todInhibited (s : State) : s.writeMatch.todInhibited = s.todInhibited := by
  have fetch : s.writeMatch.cpc.fetch = s.cpc.fetch := (congrArg Cpc.fetch s.writeMatch_cpc :)
  unfold State.todInhibited
  rw [State.writeMatch_atc, fetch]

/-- The end of a cycle that is not held, with an ATC. -/
theorem State.finish_atc (s : State) (e : Option Entry) (present : s.plat.atcPresent = true) :
    (∀ n, 1 ≤ n → n ≤ 16 → bitAt (s.finish e).atc.ita n = (bitAt s.atc.ita n ||
      ((s.atc.tod == s.atc.itmr && !s.todInhibited) && decide (n = 4) || s.now.spint && decide (n = 12)) && !bitAt s.atc.imr n)) ∧
    (∀ n, 1 ≤ n → n ≤ 16 → (s.finish e).ca2At n = if n = 1 ∧ s.now.privX0 = true then s.now.privX1 else s.ca2At n) ∧
    { (s.finish e).atc with ita := s.atc.ita, ca2 := s.atc.ca2 } = s.atc := by
  obtain ⟨atc, -⟩ := s.finish_keeps e
  obtain ⟨-, -, -, -, -, -, x1⟩ := s.x1_frame
  have spec := s.writeMatch.atcX1_spec (by rw [State.writeMatch_plat]; exact present)
  unfold State.ca2At at spec ⊢
  rw [State.writeMatch_atc, State.writeMatch_now, s.writeMatch_todInhibited] at spec
  rw [atc, x1]
  exact spec

/-! ### A refresh -/

/-- The real address that a refresh leaves in `RAR` (20 R212; log 15). -/
theorem State.toNat_startRefresh_rar (s : State) :
    s.startRefresh.atc.rar.toNat = 2 ^ 28 + s.atc.tod.toNat / 4 % 2 ^ 22 * 4 := by
  unfold State.startRefresh
  dsimp only [State.setSeq_atc, State.atcReceived_atc]
  generalize s.atc.tod = tod
  have part : (tod.extractLsb' 2 22).toNat = tod.toNat / 4 % 2 ^ 22 := by
    rw [BitVec.extractLsb'_toNat, Nat.shiftRight_eq_div_pow]
  have small := (tod.extractLsb' 2 22).isLt
  have head : (0b0001#4 ++ 0#4 : Byte).toNat = 16 := by decide
  have zero : (0#2).toNat = 0 := rfl
  rw [BitVec.toNat_append, BitVec.toNat_append, head, zero, Nat.or_zero, ← Nat.shiftLeft_add_eq_or_of_lt small, Nat.shiftLeft_eq,
    Nat.shiftLeft_eq, part]
  omega

/-- What the start of a refresh keeps. -/
theorem State.startRefresh_keeps (s : State) : s.startRefresh.atc.am = s.atc.am ∧ KeepsAtcControls s s.startRefresh := by
  unfold KeepsAtcControls State.startRefresh
  simp only [State.setSeq_atc, State.atcReceived_atc, and_self]

/-- A refresh serves its request; `RAR` has the address, the controls and the associative memory stay (20 R212). -/
theorem State.refreshWord_keeps (s : State) (present : s.plat.atcPresent = true) : s.refreshWord.atc.refReq = false ∧
    s.refreshWord.atc.rar.toNat = 2 ^ 28 + s.atc.tod.toNat / 4 % 2 ^ 22 * 4 ∧ s.refreshWord.atc.am = s.atc.am ∧
    KeepsAtcControls s s.refreshWord := by
  obtain ⟨-, -, atc⟩ := s.refreshWord_atc present
  obtain ⟨am, ca2, imr, itmr, tod, bin, binFull, psr, pmr, synLock⟩ := s.startRefresh_keeps
  have rar := s.toNat_startRefresh_rar
  have due : s.startRefresh.atc.refReq = false := rfl
  unfold KeepsAtcControls
  generalize s.startRefresh = u at *
  generalize s.refreshWord = t at *
  rw [atc]
  exact ⟨due, rar, am, ca2, imr, itmr, tod, bin, binFull, psr, pmr, synLock⟩

/-- A refresh: the word TOD addresses is scrubbed, or left with its error signalled (20 R212; 92 D25). -/
theorem State.refreshWord_spec (s : State) (present : s.plat.atcPresent = true) (wf : s.mem.wf = true) :
    let pa := s.refreshPlace
    let e := s.checked pa
    let t := s.refreshWord
    (∀ a, a < 4 * pa ∨ 4 * pa + 4 ≤ a → t.mem.byte a = s.mem.byte a) ∧
      (e.2 = .uncorrectable → t.mem = s.mem ∧ t.atc.memErr = true ∧ t.atc.mdee = true) ∧
      (e.2 ≠ .uncorrectable → t.mem.errAt pa = 0#7 ∧ (∀ b : BitVec 2, t.mem.byte (4 * pa + b.toNat) = byteOf e.1 b) ∧
        (t.atc.memErr = true ↔ s.atc.memErr = true ∨ e.2 = .corrected)) := by
  intro pa e t
  obtain ⟨-, -, atc⟩ := s.refreshWord_atc present
  have mem : t.mem = if e.2 = .uncorrectable then s.mem else (s.mem.setWord pa e.1).setErr pa 0#7 := s.refreshWord_mem
  have memErr : t.atc.memErr = (s.atc.memErr || e.2 != .ok) := by
    show s.refreshWord.atc.memErr = _
    rw [atc]
  have mdee : t.atc.mdee = (s.atc.mdee || e.2 == .uncorrectable) := by
    show s.refreshWord.atc.mdee = _
    rw [atc]
  clear atc
  clear_value t e
  refine ⟨fun a outside => ?_, fun lost => ?_, fun kept => ?_⟩
  · rw [mem]
    split
    · rfl
    · exact (Memory.byte_setErr _ _ _ _).trans (Memory.byte_setWord_ne _ _ _ _ outside)
  · rw [mem, if_pos lost, memErr, mdee, lost]
    exact ⟨rfl, Bool.or_true _, Bool.or_true _⟩
  · rw [if_neg kept] at mem
    rw [mem, memErr]
    refine ⟨?_, fun b => ?_, ?_⟩
    · rw [Memory.errAt_setErr _ _ _ _ (Memory.wf_setWord _ _ _ wf), if_pos rfl]
    · exact (Memory.byte_setErr _ _ _ _).trans (Memory.byte_setWord _ _ _ _ wf)
    · rw [Bool.or_eq_true, bne_iff_ne]
      cases h : e.2
      · simp
      · simp
      · exact absurd h kept

/-! ### The periods of TODOSC -/

/-- One period of TODOSC. -/
theorem State.tick_succ (s : State) (n : Nat) : s.tick (n + 1) = ({ s with atc := { s.atc with
    tod := s.atc.tod + 1
    refReq := s.atc.refReq || (s.atc.tod + 1).extractLsb' 0 2 == 0#2 } } : State).tick n := rfl

/-- Bits 2 and 1 of a word are both 0 if it is a multiple of four. -/
theorem lowTwo_eq_zero_iff (w : Word) : (w.extractLsb' 0 2 == 0#2) = true ↔ w.toNat % 4 = 0 := by
  rw [beq_iff_eq, ← BitVec.toNat_inj, BitVec.extractLsb'_toNat, Nat.shiftRight_zero]
  exact Iff.rfl

/-- `n` periods of TODOSC: TOD, the request of a refresh, and nothing else (11 R140; 20 R212; log 52). -/
theorem State.tick_spec (s : State) (n : Nat) : (s.tick n).atc.tod.toNat = (s.atc.tod.toNat + n) % 2 ^ 32 ∧
    ((s.tick n).atc.refReq = true ↔ s.atc.refReq = true ∨ ∃ k, 1 ≤ k ∧ k ≤ n ∧ (s.atc.tod.toNat + k) % 4 = 0) ∧
    { s.tick n with atc := { (s.tick n).atc with tod := s.atc.tod, refReq := s.atc.refReq } } = s := by
  induction n generalizing s with
  | zero =>
    refine ⟨(Nat.mod_eq_of_lt s.atc.tod.isLt).symm, ⟨.inl, ?_⟩, rfl⟩
    rintro (h | ⟨k, h1, h0, -⟩)
    · exact h
    · omega
  | succ n ih =>
    rw [State.tick_succ]
    generalize hu : ({ s with atc := { s.atc with
      tod := s.atc.tod + 1
      refReq := s.atc.refReq || (s.atc.tod + 1).extractLsb' 0 2 == 0#2 } } : State) = u
    have tod : u.atc.tod.toNat = (s.atc.tod.toNat + 1) % 2 ^ 32 := by
      rw [← hu]
      exact BitVec.toNat_add _ _
    have due : u.atc.refReq = true ↔ s.atc.refReq = true ∨ (s.atc.tod.toNat + 1) % 4 = 0 := by
      rw [← hu]
      show (s.atc.refReq || (s.atc.tod + 1).extractLsb' 0 2 == 0#2) = true ↔ _
      rw [Bool.or_eq_true, lowTwo_eq_zero_iff, BitVec.toNat_add, Nat.mod_mod_of_dvd _ (by decide)]
      exact Iff.rfl
    have rest : { u with atc := { u.atc with tod := s.atc.tod, refReq := s.atc.refReq } } = s := by rw [← hu]
    obtain ⟨tods, dues, rests⟩ := ih u
    refine ⟨?_, ?_, ?_⟩
    · rw [tods, tod]
      omega
    · rw [dues, due, tod]
      constructor
      · rintro ((h | h) | ⟨k, h1, hn, h⟩)
        · exact .inl h
        · exact .inr ⟨1, by omega, by omega, h⟩
        · exact .inr ⟨k + 1, by omega, by omega, by omega⟩
      · rintro (h | ⟨k, h1, hn, h⟩)
        · exact .inl (.inl h)
        · by_cases one : k = 1
          · subst one
            exact .inl (.inr h)
          · exact .inr ⟨k - 1, by omega, by omega, by omega⟩
    · refine Eq.trans ?_ rest
      exact congrArg (fun x : State => { x with atc := { x.atc with tod := s.atc.tod, refReq := s.atc.refReq } }) rests

/-! ### The timer between two cycles -/

/-- TOD is as before, and so is what holds the match off. -/
def TimerKept (s t : State) : Prop := t.atc.tod = s.atc.tod ∧ t.atc.todHold = s.atc.todHold

/-- Two operations that leave the timer. -/
theorem TimerKept.trans {s t u : State} (h : TimerKept s t) (g : TimerKept t u) : TimerKept s u :=
  ⟨g.1.trans h.1, g.2.trans h.2⟩

/-- `BIN` loaded. -/
theorem State.loadBin_timer (s : State) (d : Word) : TimerKept s (s.loadBin d) := by
  unfold State.loadBin
  dsimp only
  split
  · exact ⟨rfl, rfl⟩
  · split <;> exact ⟨rfl, rfl⟩

/-- A write message to `BIN`. -/
theorem State.writeBin_timer (s : State) (d : Word) : TimerKept s (s.writeBin d) := by
  unfold State.writeBin
  split
  · exact ⟨rfl, rfl⟩
  · exact s.loadBin_timer d

/-- WVP. -/
theorem State.writeVirtualPage_timer {s t : State} {d : Word} (h : s.writeVirtualPage d = .ok t) : TimerKept s t := by
  unfold State.writeVirtualPage at h
  split at h
  · cases h
  · cases h; exact ⟨rfl, rfl⟩

/-- WSPF. -/
theorem State.writePageFrame_timer {s t : State} {d : Word} (h : s.writePageFrame d = .ok t) : TimerKept s t := by
  unfold State.writePageFrame at h
  split at h
  · cases h
  · split at h
    · cases h
    · cases h; exact ⟨rfl, rfl⟩

/-- PS and PSM. -/
theorem State.purge_timer {s t : State} {m : BitVec 22} {d : Word} (h : s.purge m d = .ok t) : TimerKept s t := by
  unfold State.purge at h
  split at h
  · cases h
  · cases h; exact ⟨rfl, rfl⟩

/-- TVA. -/
theorem State.translateOnly_timer {s t : State} {d : Word} (h : s.translateOnly d = .ok t) : TimerKept s t := by
  unfold State.translateOnly at h
  split at h
  · cases h
  · split at h
    · cases h
    · dsimp only at h
      split at h
      · cases h; exact ⟨rfl, rfl⟩
      · cases h; exact ⟨rfl, rfl⟩
      · cases h

/-- ESPF. -/
theorem State.espf_timer {s t : State} (h : s.espf = .ok t) : TimerKept s t := by
  unfold State.espf at h
  split at h
  · cases h
  · cases h; exact ⟨rfl, rfl⟩

/-- A write message to a register other than TOD. -/
theorem State.eruWrite_tod {s t : State} {n : BitVec 7} {d : Word} (h : s.eruWrite n d = .ok t) (other : n ≠ 44#7) :
    t.atc.tod = s.atc.tod := by
  have different : n.toNat ≠ 44 := fun q => other (BitVec.eq_of_toNat_eq q)
  unfold State.eruWrite at h
  dsimp only at h
  split at h
  · cases h; rfl
  split at h
  case h_5 q => exact absurd q different
  case h_7 =>
    cases h
    split
    · exact (s.atcReceived.writeBin_timer d).1
    · exact (s.atcReceived.loadBin_timer d).1
  case h_11 => exact (State.writeVirtualPage_timer h).1
  case h_12 => exact (State.writePageFrame_timer h).1
  case h_13 => exact (State.purge_timer h).1
  case h_15 => exact (State.purge_timer h).1
  case h_16 => exact (State.translateOnly_timer h).1
  all_goals (cases h; rfl)

/-- A read message to a register. -/
theorem State.eruRead_timer {s t : State} {n : BitVec 7} {w : Word} (h : s.eruRead n = .ok (w, t)) : TimerKept s t := by
  unfold State.eruRead at h
  dsimp only at h
  split at h
  · cases h; exact ⟨rfl, rfl⟩
  split at h
  case h_9 =>
    split at h
    · cases h
    · next u q =>
      obtain ⟨tod, hold⟩ := State.espf_timer q
      cases h
      exact ⟨tod, hold⟩
  case h_14 =>
    split at h
    · cases h; exact ⟨rfl, rfl⟩
    · cases h
  all_goals (cases h; exact ⟨rfl, rfl⟩)

/-- A memory cycle. -/
theorem MemoryCycle.timer {s t : State} (h : MemoryCycle s t) : TimerKept s t :=
  ⟨h.field Atc.tod fun _ _ _ _ _ _ _ _ _ _ => rfl, h.field Atc.todHold fun _ _ _ _ _ _ _ _ _ _ => rfl⟩

/-- A fetch of another device. -/
theorem State.deviceFetch_timer (s : State) (a : Word) : TimerKept s (s.deviceFetch a) := by
  have started : TimerKept s (s.startFetch false (fetchBusWord a)) := by
    rw [State.startFetch_spec]
    exact ⟨rfl, rfl⟩
  exact started.trans ((State.fetchWord_cycle _ (messageTarget a)).trans (State.signalError_cycle _ _)).timer

/-- A real store. -/
theorem State.realStore_timer (s : State) (b : Bool) (t : Target) (tags : Digit) (d : Word) : TimerKept s (s.realStore b t tags d) :=
  TimerKept.trans (t := s.startStore b tags) ⟨rfl, rfl⟩ (State.storeWord_cycle _ t tags d).timer

/-- A refresh. -/
theorem State.refreshWord_timer (s : State) : TimerKept s s.refreshWord := by
  have read : TimerKept s (s.startRefresh.eccRead true s.refreshPlace).2 :=
    TimerKept.trans (t := s.startRefresh) ⟨rfl, rfl⟩ (s.startRefresh.eccRead_cycle true s.refreshPlace).timer
  unfold State.refreshWord
  dsimp only
  generalize s.startRefresh.eccRead true s.refreshPlace = r at read
  obtain ⟨⟨d, e⟩, u⟩ := r
  dsimp only
  split <;> exact read.trans ⟨rfl, rfl⟩

/-- A message to a port. -/
theorem State.portWrite_timer (s : State) (p : BitVec 6) (d : Word) : TimerKept s (s.portWrite p d) := by
  unfold State.portWrite
  split <;> exact ⟨rfl, rfl⟩

/-- A read of a port. -/
theorem State.portRead_timer (s : State) (p : BitVec 6) : TimerKept s (s.portRead p).2 := by
  unfold State.portRead
  dsimp only
  split <;> exact ⟨rfl, rfl⟩

/-- A write message of another device to a register other than TOD. -/
theorem State.deviceWrite_tod {s t : State} {n : BitVec 7} {d : Word} (h : s.deviceWrite n d = .ok t) (other : n ≠ 44#7) :
    t.atc.tod = s.atc.tod := by
  unfold State.deviceWrite at h
  split at h
  · cases h; exact (s.portWrite_timer _ d).1
  · split at h
    · cases h
      split
      · exact (s.atcReceived.writeBin_timer d).1
      · rfl
    · split at h
      · cases h
      · next q =>
        have tod := State.eruWrite_tod q other
        cases h
        exact tod

/-- The Processor Interrupt message. -/
theorem State.binWrite_timer {s t : State} {d : Word} (h : s.deviceMessage (.binWrite d) = .ok t) : TimerKept s t := by
  cases h
  split
  · exact s.atcReceived.writeBin_timer d
  · exact ⟨rfl, rfl⟩

/-- A message of another device that writes no register. -/
theorem State.deviceMessage_timer {s t : State} {m : BusMessage} (h : s.deviceMessage m = .ok t)
    (reads : ∀ r d, m ≠ .eruWrite r d) : TimerKept s t := by
  cases m with
  | realFetch a => cases h; exact s.deviceFetch_timer a
  | realStore a tags d =>
    cases h
    split
    · exact s.deviceFetch_timer a
    · exact s.realStore_timer _ _ _ _
  | binWrite d => exact State.binWrite_timer h
  | eruWrite n d => exact absurd rfl (reads n d)
  | eruRead n =>
    replace h : s.deviceRead n = .ok t := h
    unfold State.deviceRead at h
    split at h
    · cases h; exact s.portRead_timer _
    · split at h
      · cases h
      · next q => cases h; exact State.eruRead_timer q

/-- A message of another device that does not write TOD. -/
theorem State.deviceMessage_tod {s t : State} {m : BusMessage} (h : s.deviceMessage m = .ok t)
    (other : ∀ d, m ≠ .eruWrite 44#7 d) : t.atc.tod = s.atc.tod := by
  cases m with
  | eruWrite n d => exact State.deviceWrite_tod (s := s) (n := n) (d := d) h fun q => other d (by rw [q])
  | realFetch a => exact (State.deviceMessage_timer h fun _ _ => nofun).1
  | realStore a tags d => exact (State.deviceMessage_timer h fun _ _ => nofun).1
  | binWrite d => exact (State.deviceMessage_timer h fun _ _ => nofun).1
  | eruRead n => exact (State.deviceMessage_timer h fun _ _ => nofun).1

/-- What every message of a list keeps, the list keeps. -/
theorem State.deviceMessages_keep {α : Type} (f : State → α) (ok : BusMessage → Prop)
    (one : ∀ s t m, ok m → State.deviceMessage s m = .ok t → f t = f s) :
    ∀ (ms : List BusMessage) (s t : State), (∀ m ∈ ms, ok m) → s.deviceMessages ms = .ok t → f t = f s := by
  intro ms
  induction ms with
  | nil => intro s t _ h; cases h; rfl
  | cons m ms ih =>
    intro s t all h
    unfold State.deviceMessages at h
    split at h
    · cases h
    · next u q =>
      exact (ih u t (fun x hx => all x (List.mem_cons_of_mem m hx)) h).trans (one s u m (all m List.mem_cons_self) q)

/-- The timer in the state in which the cycle starts: as the messages leave it. -/
theorem State.begin_timer {s b : State} (h : s.begin = .ok b) : ∃ ms t, (∀ m ∈ ms, m ∈ b.now.messages) ∧
    State.deviceMessages (if s.plat.atcPresent = true then s.takeInput.clearOutputs.tick b.now.todTicks
      else s.takeInput.clearOutputs) ms = .ok t ∧ TimerKept t b := by
  have now : b.now = s.takeInput.now := by
    obtain ⟨-, -, -, -, -, -, now, -⟩ := State.begin_spec h
    rw [now]
    unfold State.takeInput
    cases s.inputs <;> rfl
  have plat : s.takeInput.plat = s.plat := by
    unfold State.takeInput
    cases s.inputs <;> rfl
  unfold State.begin State.between at h
  dsimp only at h
  rw [now]
  have present : s.takeInput.clearOutputs.plat.atcPresent = s.plat.atcPresent := by rw [← plat]; rfl
  have ticks : s.takeInput.clearOutputs.now = s.takeInput.now := rfl
  rw [present, ticks] at h
  generalize hu : (if s.plat.atcPresent = true then s.takeInput.clearOutputs.tick s.takeInput.now.todTicks
      else s.takeInput.clearOutputs) = u at h ⊢
  have uNow : u.now = s.takeInput.now := by
    rw [← hu]
    split
    · obtain ⟨-, -, -, -, -, -, now⟩ := s.takeInput.clearOutputs.tick_keeps s.takeInput.now.todTicks
      exact now
    · rfl
  split at h
  · cases h
  · next t q =>
    refine ⟨_, t, fun m hm => ?_, q, ?_⟩
    · rw [← uNow]
      split at hm
      · exact hm
      · exact absurd hm List.not_mem_nil
    · cases h
      split
      · exact t.refreshWord_timer
      · exact ⟨rfl, rfl⟩

/-- A cycle begins with its periods counted, unless a device writes TOD (11 R140). -/
theorem State.begin_tod {s b : State} (h : s.begin = .ok b) (present : s.plat.atcPresent = true)
    (other : ∀ m ∈ b.now.messages, ∀ d, m ≠ .eruWrite 44#7 d) :
    b.atc.tod.toNat = (s.atc.tod.toNat + b.now.todTicks) % 2 ^ 32 := by
  obtain ⟨ms, t, mem, run, tod, -⟩ := State.begin_timer h
  rw [if_pos present] at run
  have kept := State.deviceMessages_keep (fun x => x.atc.tod) (fun m => ∀ d, m ≠ .eruWrite 44#7 d)
    (fun s t m hm q => State.deviceMessage_tod q hm) ms _ t (fun m hm => other m (mem m hm)) run
  have start : s.takeInput.clearOutputs.atc.tod = s.atc.tod := by
    unfold State.takeInput
    cases s.inputs <;> rfl
  obtain ⟨counted, -⟩ := s.takeInput.clearOutputs.tick_spec b.now.todTicks
  rw [tod, show t.atc.tod = _ from kept, counted, start]

/-- A cycle begins with the match not held off, unless a device writes a register (60 R704). -/
theorem State.begin_todHold {s b : State} (h : s.begin = .ok b) (reads : ∀ m ∈ b.now.messages, ∀ r d, m ≠ .eruWrite r d) :
    b.atc.todHold = false := by
  obtain ⟨ms, t, mem, run, -, hold⟩ := State.begin_timer h
  have kept := State.deviceMessages_keep (fun x => x.atc.todHold) (fun m => ∀ r d, m ≠ .eruWrite r d)
    (fun s t m hm q => (State.deviceMessage_timer q hm).2) ms _ t (fun m hm => reads m (mem m hm)) run
  rw [hold, show t.atc.todHold = _ from kept]
  split
  · obtain ⟨-, -, rest⟩ := s.takeInput.clearOutputs.tick_spec b.now.todTicks
    exact (congrArg (fun x : State => x.atc.todHold) rest :)
  · rfl

/-- Settles O11: the end of the cycle by X1, the refresh by the word it scrubs, the periods of TODOSC by induction. -/
theorem atcActsByItself : Obligations.AtcActsByItself := by
  refine ⟨fun s e present => ?_, fun s present wf => ?_, fun s n => ?_⟩
  · intro t fetching
    obtain ⟨ita, ca2, rest⟩ := s.finish_atc e present
    obtain ⟨-, mem, ind, rsu⟩ := s.finish_keeps e
    obtain ⟨-, cpc, x1Mem, -⟩ := s.x1_frame
    have inds : ∀ n, 1 ≤ n → n ≤ 7 → t.indAt n = s.x1.indAt n := fun n h1 h7 => by
      rw [State.indAt_of_le_seven _ h1 h7, State.indAt_of_le_seven _ h1 h7]
      exact congrArg (bitAt · n) ind
    obtain ⟨-, -, -, due⟩ := s.finish_settled e
    refine ⟨fun n h1 h16 => ?_, ca2, rest, ?_, ?_, due, fun n h1 h5 => ?_, fun r => ?_, mem.trans x1Mem⟩
    · have off : s.todInhibited = false ↔ s.atc.todHold = false ∧ ¬fetching := by
        rw [← Bool.not_eq_true, s.todInhibited_iff, not_or, Bool.not_eq_true]
        simp only [fetching, or_assoc]
      rw [ita n h1 h16]
      simp only [Bool.or_eq_true, Bool.and_eq_true, decide_eq_true_eq, Bool.not_eq_true', beq_iff_eq, off]
      constructor
      · rintro (h | ⟨(⟨⟨h, free⟩, rfl⟩ | ⟨h, rfl⟩), mask⟩)
        · exact .inl h
        · exact .inr (.inl ⟨rfl, h, free.1, free.2, mask⟩)
        · exact .inr (.inr ⟨rfl, h, mask⟩)
      · rintro (h | ⟨rfl, h, free, quiet, mask⟩ | ⟨rfl, h, mask⟩)
        · exact .inl h
        · exact .inr ⟨.inl ⟨⟨h, free, quiet⟩, rfl⟩, mask⟩
        · exact .inr ⟨.inr ⟨h, rfl⟩, mask⟩
    · rw [inds 7 (by decide) (by decide), s.indAt_x1 (by decide), if_pos rfl]
    · rw [inds 6 (by decide) (by decide), s.indAt_x1 (by decide), if_neg (by decide), if_pos rfl]
    · rw [inds n h1 (by omega), s.indAt_x1 h1, if_neg (by omega), if_neg (by omega)]
    · exact State.rsu_of_cpc (rsu.trans (congrArg Cpc.rsu cpc :)) r
  · intro pa e t
    have place : s.refreshPlace = pa := by
      show (s.atc.tod.extractLsb' 2 22).toNat % s.memWords = _
      rw [BitVec.extractLsb'_toNat, Nat.shiftRight_eq_div_pow]
    obtain ⟨cpc, pipe, -⟩ := s.refreshWord_atc present
    obtain ⟨due, rar, am, controls⟩ := s.refreshWord_keeps present
    obtain ⟨others, lost, scrubbed⟩ := s.refreshWord_spec present wf
    rw [place] at others lost scrubbed
    exact ⟨due, cpc, pipe, others, lost, scrubbed, rar, am, controls⟩
  · obtain ⟨tod, due, rest⟩ := s.tick_spec n
    exact ⟨tod, due, rest, fun b h => ⟨State.begin_tod h, State.begin_todHold h⟩⟩

end Sys2Proof.Machine
end

section
/-! Real and scratch pad messages of the CPC and of other devices, and the word received (20, 40, 47). -/

namespace Sys2Proof.Machine

/-! ### Scratch pad addresses -/

/-- A scratch pad word is installed (20 R187). -/
theorem State.physical_scratchTarget (s : State) (n : BitVec 7) :
    s.physical (scratchTarget n) = s.scratchWord n.toNat ∧ s.beyond (scratchTarget n) = false := by
  have low : ((0x7FFF#15 ++ n).extractLsb' 0 7 : BitVec 7) = n := by
    apply BitVec.eq_of_getLsbD_eq
    intro i hi
    rw [BitVec.getLsbD_extractLsb', decide_eq_true hi, Bool.true_and, Nat.zero_add, BitVec.getLsbD_append, if_pos hi]
  refine ⟨?_, rfl⟩
  show s.memWords - 128 + ((0x7FFF#15 ++ n).extractLsb' 0 7 : BitVec 7).toNat = _
  rw [low]
  rfl

/-- The scratch pad words 0 to 63. -/
theorem toNat_lowEntry (a : BitVec 6) : (0#1 ++ a : BitVec 7).toNat = a.toNat := by
  rw [BitVec.toNat_append]
  exact Nat.zero_or _

/-! ### Fetches -/

/-- A fetch instruction that asks for the word `pa`, which is installed if `known`, and makes `a + d` of the registers `ks`. -/
def FetchesWord (s : State) (i : Instr) (a : Word) (pa : Nat) (known : Bool) (d : Word) (ks : List RsuNum) : Prop :=
  ∃ t, exec i s = .next t ∧ (known = true → WillDeliver s t pa) ∧ (∃ f, t.cpc.fetch = some { data := some f, age := 0 }) ∧
    KeepsRsu s t ks ∧ (∀ r ∈ ks, t.rsu r = a + d) ∧ t.mem = s.mem ∧ t.cpc.sr = s.cpc.sr ∧ t.cpc.wtr = s.cpc.wtr ∧
    t.cpc.m6wt = s.cpc.m6wt ∧ t.cpc.ind = s.cpc.ind ∧ KeepsOutsideMemory s t ∧ KeepsAtcControls s t

/-- A real fetch and nothing else. -/
theorem State.fetchesWord {s : State} {i : Instr} {w : Target} (a d : Word) (h : exec i s = .next (s.cpcRealFetch w)) :
    FetchesWord s i a (s.physical w) (!s.beyond w) d [] := by
  obtain ⟨cpc, mem, machine, controls, delivers⟩ := s.cpcRealFetch_spec w
  have field := fun {α : Type} (f : Cpc → α) => congrArg f cpc
  refine ⟨_, h, fun near => delivers ((Bool.not_eq_true' _).mp near), ⟨_, field Cpc.fetch⟩,
    fun r _ => State.rsu_of_cpc (field Cpc.rsu) r, fun r hr => absurd hr List.not_mem_nil, mem, field Cpc.sr, field Cpc.wtr,
    field Cpc.m6wt, field Cpc.ind, machine.outsideMemory ?_, controls⟩
  rw [cpc]

/-- A real fetch that loads the register `j`. -/
theorem State.fetchesWord_loading {s : State} {i : Instr} {w : Target} (a d : Word) (j : RsuNum)
    (h : exec i s = .next ((s.cpcRealFetch w).setRsu j (a + d))) :
    FetchesWord s i a (s.physical w) (!s.beyond w) d [j] := by
  obtain ⟨cpc, mem, machine, controls, delivers⟩ := s.cpcRealFetch_spec w
  have field := fun {α : Type} (f : Cpc → α) => congrArg f cpc
  refine ⟨_, h, fun near => (delivers ((Bool.not_eq_true' _).mp near)).to rfl, ⟨_, field Cpc.fetch⟩, fun r hr => ?_, fun r hr => ?_, mem,
    field Cpc.sr, field Cpc.wtr, field Cpc.m6wt, field Cpc.ind, ?_, controls⟩
  · rw [State.rsu_setRsu, if_neg fun e : j = r => hr (e ▸ List.mem_singleton_self _)]
    exact State.rsu_of_cpc (field Cpc.rsu) r
  · obtain rfl := List.mem_singleton.mp hr
    exact State.rsu_setRsu_same _ _
  · refine KeepsMachine.outsideMemory machine ?_
    rw [State.setRsu_cpc, cpc]

/-- A fetch instruction while address translation is off. -/
theorem fetchAt_real {s : State} (off : s.ca1At 12 = false) (a : Word) (pc : BitVec 2) (f : State → State) :
    fetchAt s a pc f = .next (f (s.cpcRealFetch (s.realTarget a))) := by
  unfold fetchAt
  exact if_neg (by rw [off]; decide)

/-- A fetch of another device (11 R134; 22 R280, R292). -/
theorem State.deviceFetch_spec (s : State) (w : Word) :
    (s.deviceFetch w).mem = s.mem ∧ (s.deviceFetch w).cpc = s.cpc ∧ (s.deviceFetch w).pipe = s.pipe ∧
    (s.deviceFetch w).atc.ita = s.atc.ita ∧ KeepsAtcControls s (s.deviceFetch w) ∧
    (s.plat.atcPresent = true → (s.deviceFetch w).atc.rar = fetchBusWord w) ∧
    (s.beyond (messageTarget w) = false →
      (s.deviceFetch w).atc.memErr = (s.atc.memErr || (s.checked (s.physical (messageTarget w))).2 != .ok) ∧
      (s.deviceFetch w).atc.mdee = (s.atc.mdee || (s.checked (s.physical (messageTarget w))).2 == .uncorrectable)) := by
  obtain ⟨cpc, pipe, mem, -⟩ := s.deviceFetch_onlyAtc w
  have start := s.startFetch_spec false (fetchBusWord w)
  have e : s.deviceFetch w = ((s.startFetch false (fetchBusWord w)).fetchWord (messageTarget w)).2.signalError
      ((s.startFetch false (fetchBusWord w)).fetchWord (messageTarget w)).1.status := by
    unfold State.deviceFetch
    rw [State.realFetch_eq]
  generalize s.startFetch false (fetchBusWord w) = v at start e
  have sees : SeesMemory s v := by
    rw [start]
    exact ⟨rfl, rfl, rfl⟩
  have cycle : MemoryCycle v (s.deviceFetch w) := by
    rw [e]
    exact (v.fetchWord_cycle _).trans (State.signalError_cycle _ _)
  have controls : KeepsAtcControls s v := by
    rw [start]
    exact ⟨rfl, rfl, rfl, rfl, rfl, rfl, rfl, rfl, rfl⟩
  have ita : v.atc.ita = s.atc.ita := by rw [start]
  have rar : v.atc.rar = if s.plat.atcPresent = true then fetchBusWord w else s.atc.rar := by rw [start]
  have errors : v.atc.memErr = s.atc.memErr ∧ v.atc.mdee = s.atc.mdee := by
    rw [start]
    exact ⟨rfl, rfl⟩
  refine ⟨mem, cpc, pipe, (cycle.field Atc.ita fun _ _ _ _ _ _ _ _ _ _ => rfl).trans ita, controls.trans cycle.controls,
    fun present => ?_, fun near => ?_⟩
  · rw [cycle.field Atc.rar fun _ _ _ _ _ _ _ _ _ _ => rfl, rar, if_pos present]
  · obtain ⟨beyond, physical⟩ := sees.place (messageTarget w)
    obtain ⟨status, -⟩ := v.fetchWord_word (messageTarget w) (beyond.trans near)
    rw [physical, sees.checked] at status
    have kept := v.fetchWord_keeps (messageTarget w)
    have memErr : (v.fetchWord (messageTarget w)).2.atc.memErr = v.atc.memErr := (congrArg (fun x : State => x.atc.memErr) kept :)
    have mdee : (v.fetchWord (messageTarget w)).2.atc.mdee = v.atc.mdee := (congrArg (fun x : State => x.atc.mdee) kept :)
    obtain ⟨e1, e2⟩ := errors
    rw [e, ← status, ← e1, ← e2, ← memErr, ← mdee]
    exact ⟨rfl, rfl⟩

/-- Settles O20: every fetch instruction is a real fetch of the CPC, and the register it loads. -/
theorem realFetches : Obligations.RealFetches := by
  intro a j k s target fetches
  have less : s.rsu k - 4 = s.rsu k + -4 := BitVec.sub_eq_add_neg _ _
  refine ⟨s.fetchesWord _ 0 rfl, ?_, fun off => ⟨s.fetchesWord _ 0 ?_, s.fetchesWord_loading _ 4 j ?_, s.fetchesWord_loading _ 4 j ?_,
    s.fetchesWord_loading _ (-4) j ?_⟩, fun off real pc => s.fetchesWord _ 0 ?_, fun w => ?_⟩
  · obtain ⟨place, near⟩ := s.physical_scratchTarget (0#1 ++ a)
    have fetched : FetchesWord s (.fl a) (s.rsu k) _ _ 0 [] := s.fetchesWord (w := scratchTarget (0#1 ++ a)) _ 0 rfl
    rw [place, near, toNat_lowEntry] at fetched
    exact fetched
  · exact fetchAt_real off _ _ _
  · exact fetchAt_real off (s.rsu k) (fetchCode k) fun t => t.setRsu j (s.rsu k + 4)
  · exact fetchAt_real off (s.rsu k) 2#2 fun t => t.setRsu j (s.rsu k + 4)
  · rw [← less]
    exact fetchAt_real off (s.rsu k) (fetchCode k) fun t => t.setRsu j (s.rsu k - 4)
  · show execMrr k s = _
    unfold execMrr
    dsimp only
    rw [if_neg pc, off, real]
    rfl
  · obtain ⟨mem, cpc, pipe, ita, controls, rar, errors⟩ := s.deviceFetch_spec w
    refine ⟨_, rfl, mem, cpc, pipe, ita, controls, fun present => ?_, fun near => ?_⟩
    · obtain ⟨tags, address⟩ := rar_fields (w.extractLsb' 28 4) 0#4 (w.extractLsb' 0 24)
      rw [rar present]
      refine ⟨address.trans ?_, tags⟩
      rw [BitVec.extractLsb'_toNat, Nat.shiftRight_zero]
      omega
    · obtain ⟨memErr, mdee⟩ := errors near
      rw [memErr, mdee, Bool.or_eq_true, Bool.or_eq_true, bne_iff_ne, beq_iff_eq]
      exact ⟨Iff.rfl, Iff.rfl⟩

/-! ### Stores -/

/-- What a store instruction does with the tags `tags`, the address register moving by `d` if it is in `ks` (40 R363, R373 to R376). -/
def StoresPair (s : State) (i : Instr) (target : Target) (tags : Digit) (k : RsuNum) (d : Word) (ks : List RsuNum) : Prop :=
  (tags = 0#4 → exec i s = .refused .noWriteTags) ∧
  (tags ≠ 0#4 → ∃ t, exec i s = .next t ∧
    (s.beyond target = true → KeepsMemory s t) ∧
    (s.mem.wf = true → s.beyond target = false → StoresAt s t (s.physical target) tags (s.rsu (oddOf k))) ∧
    (∀ n, n < 4 * s.physical target ∨ 4 * s.physical target + 4 ≤ n → t.mem.byte n = s.mem.byte n) ∧
    KeepsRsu s t ks ∧ (ks ≠ [] → t.rsu (evenOf k) = s.rsu (evenOf k) + d) ∧
    t.cpc.wtr = tags ∧ t.cpc.m6wt = (if k = 12#4 ∨ k = 13#4 then 0#4 else s.cpc.m6wt) ∧ t.cpc.sr = s.cpc.sr ∧
    t.cpc.ind = s.cpc.ind ∧ KeepsOutsideMemory s t ∧ KeepsAtcControls s t)

/-- A real store of a pair, and no more. -/
theorem State.storesPair {s : State} {i : Instr} {j : Lit4} {k : RsuNum} (d : Word) (h : exec i s = storePair s false j k id) :
    StoresPair s i (s.realTarget (s.rsu (evenOf k))) (s.storeTags j) k d [] := by
  have run : exec i s = if s.storeTags j = 0#4 then .refused .noWriteTags else
    .next ((s.takeTags j k).cpcRealStore (s.realTarget (s.rsu (evenOf k))) (s.storeTags j) (s.rsu (oddOf k))) := h
  obtain ⟨cpc, machine, controls, stored⟩ :=
    (s.takeTags j k).cpcRealStore_spec (s.realTarget (s.rsu (evenOf k))) (s.storeTags j) (s.rsu (oddOf k))
  have field := fun {α : Type} (f : Cpc → α) => congrArg f cpc
  refine ⟨fun none => by rw [run, if_pos none], fun some => ⟨_, by rw [run, if_neg some], ?_⟩⟩
  obtain ⟨far, near, others⟩ := stored
  refine ⟨far, fun wf inside => (near wf inside).from ⟨rfl, rfl, rfl⟩ ⟨rfl, rfl, rfl⟩, others,
    fun r _ => State.rsu_of_cpc (field Cpc.rsu) r, fun h => absurd rfl h, field Cpc.wtr, field Cpc.m6wt, field Cpc.sr, field Cpc.ind,
    KeepsMachine.outsideMemory machine ?_, controls⟩
  rw [cpc]
  rfl

/-- A real store of a pair, the address register moving. -/
theorem State.storesPair_moving {s : State} {i : Instr} {j : Lit4} {k : RsuNum} (d : Word)
    (h : exec i s = storePair s false j k fun t => t.setRsu (evenOf k) (s.rsu (evenOf k) + d)) :
    StoresPair s i (s.realTarget (s.rsu (evenOf k))) (s.storeTags j) k d [evenOf k] := by
  have run : exec i s = if s.storeTags j = 0#4 then .refused .noWriteTags else
    .next (((s.takeTags j k).cpcRealStore (s.realTarget (s.rsu (evenOf k))) (s.storeTags j) (s.rsu (oddOf k))).setRsu (evenOf k)
      (s.rsu (evenOf k) + d)) := h
  obtain ⟨cpc, machine, controls, stored⟩ :=
    (s.takeTags j k).cpcRealStore_spec (s.realTarget (s.rsu (evenOf k))) (s.storeTags j) (s.rsu (oddOf k))
  have field := fun {α : Type} (f : Cpc → α) => congrArg f cpc
  refine ⟨fun none => by rw [run, if_pos none], fun some => ⟨_, by rw [run, if_neg some], ?_⟩⟩
  obtain ⟨far, near, others⟩ := stored
  refine ⟨far, fun wf inside => ((near wf inside).from ⟨rfl, rfl, rfl⟩ ⟨rfl, rfl, rfl⟩).to rfl rfl, others, fun r hr => ?_,
    fun _ => State.rsu_setRsu_same _ _, field Cpc.wtr, field Cpc.m6wt, field Cpc.sr, field Cpc.ind,
    KeepsMachine.outsideMemory machine ?_, controls⟩
  · rw [State.rsu_setRsu, if_neg fun e : evenOf k = r => hr (e ▸ List.mem_singleton_self _)]
    exact State.rsu_of_cpc (field Cpc.rsu) r
  · rw [State.setRsu_cpc, cpc]
    rfl

/-- Settles O19: every store instruction is a real store of the CPC from the state with its tags taken. -/
theorem realAndScratchPadStores : Obligations.RealAndScratchPadStores := by
  refine ⟨fun j k s => ?_, fun a k s => ?_, fun k s => ?_, fun a d tags s some => ?_⟩
  · intro tags target stores
    have less : s.rsu (evenOf k) - 4 = s.rsu (evenOf k) + -4 := BitVec.sub_eq_add_neg _ _
    refine ⟨State.storesPair (j := j) 0 rfl, fun off => ⟨State.storesPair (j := j) 0 ?_, State.storesPair_moving (j := j) 4 ?_,
      State.storesPair_moving (j := j) (-4) ?_⟩⟩
    · show storePair s (s.ca1At 12) j k id = _
      rw [off]
    · show storePair s (s.ca1At 12) j k (fun t => t.setRsu (evenOf k) (s.rsu (evenOf k) + 4)) = _
      rw [off]
    · show storePair s (s.ca1At 12) j k (fun t => t.setRsu (evenOf k) (s.rsu (evenOf k) - 4)) = _
      rw [off, less]
  · obtain ⟨cpc, machine, controls, -, stored, -⟩ := s.cpcRealStore_spec (scratchTarget (0#1 ++ a)) 0xF#4 (s.rsu k)
    obtain ⟨place, near⟩ := s.physical_scratchTarget (0#1 ++ a)
    have field := fun {α : Type} (f : Cpc → α) => congrArg f cpc
    rw [place, toNat_lowEntry] at stored
    refine ⟨_, rfl, fun wf => stored wf near, State.rsu_of_cpc (field Cpc.rsu), field Cpc.sr, field Cpc.ind,
      machine.outsideMemory ?_, controls⟩
    rw [cpc]
  · intro tags target off real pc some
    obtain ⟨cpc, ⟨pipe, -⟩, controls, far, near, others⟩ := s.cpcRealStore_spec target tags (s.rsu (s.cpc.sr.extractLsb' 10 4))
    refine ⟨(s.cpcRealStore target tags (s.rsu (s.cpc.sr.extractLsb' 10 4))).void 2, ?_, far, fun wf inside => (near wf inside).to rfl rfl,
      others, cpc, ?_, controls⟩
    · show execMrr k s = _
      unfold execMrr
      dsimp only
      rw [if_pos pc, if_neg some, off, real]
      rfl
    · rw [State.void_pipe, pipe]
  · intro target
    obtain ⟨cpc, pipe, -⟩ := (s.startStore false tags).storeWord_keeps target tags d
    have cycle := (s.startStore false tags).storeWord_cycle target tags d
    obtain ⟨far, near, -⟩ :=
      State.storeWord_from (s := s) (v := s.startStore false tags) ⟨rfl, rfl, rfl⟩ ⟨rfl, rfl, rfl⟩ target tags d
    refine ⟨(s.startStore false tags).storeWord target tags d, ?_, far, near, cpc, pipe,
      cycle.field Atc.ita fun _ _ _ _ _ _ _ _ _ _ => rfl,
      KeepsAtcControls.trans (t := s.startStore false tags) ⟨rfl, rfl, rfl, rfl, rfl, rfl, rfl, rfl, rfl⟩ cycle.controls⟩
    show Except.ok (if tags = 0#4 then s.deviceFetch a else s.realStore false target tags d) = _
    rw [if_neg some, State.realStore_eq]

end Sys2Proof.Machine
end

section
/-! The word received, and the scratch pad through the operand pointers and the stack (20, 40, 41, 47). -/

namespace Sys2Proof.Machine

/-! ### The word received -/

/-- The word received: the one outstanding, which is outstanding no longer (40 R361; 92 D40). -/
theorem State.receive_spec (s : State) : (∀ f age, s.cpc.fetch = some { data := some f, age := age } → s.receive.1 = f) ∧
    s.receive.2.cpc = { s.cpc with fetch := none } ∧ s.receive.2.atc = s.atc ∧ s.receive.2.mem = s.mem ∧
    KeepsMachine s s.receive.2 := by
  unfold State.receive
  split
  · next w age h =>
    refine ⟨fun f age' e => ?_, rfl, rfl, rfl, rfl, rfl, rfl, rfl, rfl⟩
    rw [h] at e
    cases e
    rfl
  · next other =>
    have gone : s.dropFetch = { s with cpc := { s.cpc with fetch := none } } := by
      unfold State.dropFetch
      split
      · next w age h => exact absurd h (other w age)
      · rfl
    rw [gone]
    exact ⟨fun f age e => absurd e (other f age), rfl, rfl, rfl, rfl, rfl, rfl, rfl, rfl⟩

/-- The error of a received word shown: the trap, or the outputs (60 R714). -/
def State.showError (s : State) (e : EccStatus) : State := if e = .uncorrectable then s.memoryErrorTrap else s.signalError e

/-- The error of a received word: only the ATC, and none of its controls. -/
theorem State.showError_keeps (s : State) (e : EccStatus) : OnlyAtc s (s.showError e) ∧ KeepsAtcControls s (s.showError e) := by
  unfold State.showError State.memoryErrorTrap
  split
  · split <;> exact ⟨.of s _ s.fresh, rfl, rfl, rfl, rfl, rfl, rfl, rfl, rfl, rfl⟩
  · exact ⟨.of s _ s.fresh, rfl, rfl, rfl, rfl, rfl, rfl, rfl, rfl, rfl⟩

/-- The memory error trap of an uncorrectable word (60 R714). -/
theorem State.showError_lost (s : State) (present : s.plat.atcPresent = true) (on : s.ca2At 7 = false) :
    bitAt (s.showError .uncorrectable).atc.ita 14 = true ∧ (s.showError .uncorrectable).atc.reqs = true ∧
      (s.showError .uncorrectable).atc.memErr = true ∧ (s.showError .uncorrectable).atc.mdee = true := by
  unfold State.showError State.memoryErrorTrap
  rw [if_pos rfl, present, on, if_pos (by decide)]
  refine ⟨?_, rfl, rfl, rfl⟩
  show bitAt (putBit s.atc.ita 14 true) 14 = true
  rw [bitAt_putBit _ _ _ _ (by decide) (by decide) (by decide), if_pos rfl]

/-- `SR` with the odd register of a pair in bits 14 to 11 (47 R674). -/
theorem bitAt_withOdd (sr : Half) (r : RsuNum) {n : Nat} (h1 : 1 ≤ n) (h16 : n ≤ 16) :
    bitAt (sr.extractLsb' 14 2 ++ r ++ sr.extractLsb' 0 10 : Half) n =
      if 11 ≤ n ∧ n ≤ 14 then bitAt r (n - 10) else bitAt sr n := by
  unfold bitAt
  rw [BitVec.getLsbD_append, BitVec.getLsbD_append]
  by_cases low : n - 1 < 10
  · rw [if_pos low, if_neg (by omega), BitVec.getLsbD_extractLsb', decide_eq_true low, Bool.true_and, Nat.zero_add]
  · rw [if_neg low]
    by_cases mid : n - 1 - 10 < 4
    · rw [if_pos mid, if_pos (by omega), show n - 1 - 10 = n - 10 - 1 by omega]
    · rw [if_neg mid, if_neg (by omega), BitVec.getLsbD_extractLsb', decide_eq_true (by omega), Bool.true_and]
      congr 1
      omega

/-- The register number that RCV puts in `SR`, if it does (47 R674). -/
def State.captureOdd (s : State) (j : RsuNum) (k : Lit4) : State :=
  if bitAt k 1 && s.ca1At 12 then s.setSr (s.cpc.sr.extractLsb' 14 2 ++ oddOf j ++ s.cpc.sr.extractLsb' 0 10) else s

/-- What that changes. -/
theorem State.captureOdd_spec (s : State) (j : RsuNum) (k : Lit4) :
    { (s.captureOdd j k).cpc with sr := s.cpc.sr } = s.cpc ∧ (s.captureOdd j k).atc = s.atc ∧ (s.captureOdd j k).mem = s.mem ∧
    KeepsMachine s (s.captureOdd j k) ∧ ∀ n, 1 ≤ n → n ≤ 16 → bitAt (s.captureOdd j k).cpc.sr n =
      if bitAt k 1 = true ∧ s.ca1At 12 = true ∧ 11 ≤ n ∧ n ≤ 14 then bitAt (oddOf j) (n - 10) else bitAt s.cpc.sr n := by
  unfold State.captureOdd
  split
  · next h =>
    obtain ⟨k1, on⟩ := Bool.and_eq_true_iff.mp h
    refine ⟨rfl, rfl, rfl, ⟨rfl, rfl, rfl, rfl, rfl⟩, fun n h1 h16 => ?_⟩
    rw [k1, on]
    simp only [true_and]
    exact bitAt_withOdd s.cpc.sr (oddOf j) h1 h16
  · next h =>
    refine ⟨rfl, rfl, rfl, ⟨rfl, rfl, rfl, rfl, rfl⟩, fun n h1 h16 => ?_⟩
    rw [if_neg fun q => h (Bool.and_eq_true_iff.mpr ⟨q.1, q.2.1⟩)]

/-- RCV as its parts. -/
theorem exec_rcv (j : RsuNum) (k : Lit4) (s : State) : exec (.rcv j k) s =
    .next (((s.receive.2.captureOdd j k).showError s.receive.1.status).setRsu (s.rcvDest j k) s.receive.1.word) := rfl

/-- Settles O21: the word is taken, `SR` captured, the error shown, the register loaded. -/
theorem fetchedWordReceived : Obligations.FetchedWordReceived := by
  intro j k s dest
  obtain ⟨word, uCpc, uAtc, uMem, uMachine⟩ := s.receive_spec
  obtain ⟨vCpc, vAtc, vMem, vMachine, sr⟩ := s.receive.2.captureOdd_spec j k
  obtain ⟨only, controls⟩ := (s.receive.2.captureOdd j k).showError_keeps s.receive.1.status
  have trap := (s.receive.2.captureOdd j k).showError_lost
  have run := exec_rcv j k s
  generalize s.receive.2 = u at *
  generalize s.receive.1 = w at *
  generalize u.captureOdd j k = v at *
  have machine := (uMachine.trans vMachine).trans only.machine
  obtain ⟨-, vPlat, -⟩ := uMachine.trans vMachine
  obtain ⟨cpc, -, mem, -⟩ := only
  have uCa1 : u.ca1At 12 = s.ca1At 12 := (congrArg (fun c : Cpc => bitAt c.ca1 4) uCpc :)
  have uSr : u.cpc.sr = s.cpc.sr := (congrArg Cpc.sr uCpc :)
  rw [uCa1, uSr] at sr
  rw [uAtc] at vAtc
  rw [uCpc] at vCpc
  have field := fun {α : Type} (f : Cpc → α) => congrArg f vCpc
  refine ⟨_, run, fun r hr => ?_, fun f age h => ⟨?_, fun lost present on => ?_⟩, ?_, ?_, ?_, fun m h1 h16 => ?_, ?_, ?_,
    KeepsMachine.outsideMemory machine ?_, ?_⟩
  · rw [State.rsu_setRsu, if_neg fun e : s.rcvDest j k = r => hr (List.mem_singleton.mpr e.symm)]
    exact State.rsu_of_cpc ((congrArg Cpc.rsu cpc).trans (field Cpc.rsu)) r
  · rw [← word f age h]
    exact State.rsu_setRsu_same _ _
  · rw [← word f age h] at lost
    rw [lost]
    refine trap (vPlat ▸ present) ?_
    unfold State.ca2At at on ⊢
    rw [vAtc]
    exact on
  · exact (congrArg Cpc.fetch cpc).trans (field Cpc.fetch)
  · exact mem.trans (vMem.trans uMem)
  · exact (congrArg Cpc.ind cpc).trans (field Cpc.ind)
  · rw [← sr m h1 h16]
    exact (congrArg (fun c : Cpc => bitAt c.sr m) cpc :)
  · exact (congrArg Cpc.wtr cpc).trans (field Cpc.wtr)
  · exact (congrArg Cpc.m6wt cpc).trans (field Cpc.m6wt)
  · rw [State.setRsu_cpc, cpc]
    exact (congrArg (fun c : Cpc => { c with rsu := s.cpc.rsu, wtr := s.cpc.wtr, m6wt := s.cpc.m6wt, fetch := s.cpc.fetch }) vCpc)
  · have same : KeepsAtcControls s v := by
      unfold KeepsAtcControls
      rw [vAtc]
      exact ⟨rfl, rfl, rfl, rfl, rfl, rfl, rfl, rfl, rfl⟩
    exact same.trans controls

/-! ### Pointers -/

/-- An operand pointer after an access: its mode stays, its entry moves as the register number says (20 R194). -/
theorem toNat_bumpPointer (n : BitVec 5) (p : Byte) : (bumpPointer n p).toNat / 128 = p.toNat / 128 ∧
    (bumpPointer n p).toNat % 128 =
      (p.toNat + if n.toNat % 3 = 1 then 1 else if n.toNat % 3 = 2 then 127 else 0) % 128 := by
  have mode : (bit1 (bitAt p 8)).toNat = p.toNat / 128 := by
    have small := p.isLt
    unfold bit1 bitAt
    rw [BitVec.toNat_ofBool, BitVec.getLsbD, Nat.testBit_eq_decide_div_mod_eq]
    rcases (by omega : p.toNat / 128 = 0 ∨ p.toNat / 128 = 1) with h | h <;> simp [h]
  have low : (p.extractLsb' 0 7).toNat = p.toNat % 128 := by
    rw [BitVec.extractLsb'_toNat, Nat.shiftRight_zero]
  have joined : ∀ i : BitVec 7, (bit1 (bitAt p 8) ++ i : Byte).toNat = p.toNat / 128 * 128 + i.toNat := fun i => by
    rw [BitVec.toNat_append, ← Nat.shiftLeft_add_eq_or_of_lt i.isLt, Nat.shiftLeft_eq, mode]
  unfold bumpPointer
  dsimp only
  split
  · rw [joined, BitVec.toNat_add, low]
    have : (1 : BitVec 7).toNat = 1 := rfl
    omega
  · split
    · rw [joined, BitVec.toNat_sub, low]
      have : (1 : BitVec 7).toNat = 1 := rfl
      omega
    · rw [joined, low]
      omega

/-- The Stack Pointer down and up (20 R193). -/
theorem toNat_sptr (p : BitVec 5) : (p - 1).toNat = (p.toNat + 31) % 32 ∧ (p + 1).toNat = (p.toNat + 1) % 32 := by
  constructor
  · rw [BitVec.toNat_sub]
    have : (1 : BitVec 5).toNat = 1 := rfl
    omega
  · exact BitVec.toNat_add _ _

/-- The entry of a stack word. -/
theorem toNat_stackEntry (p : BitVec 5) : (2#2 ++ p : BitVec 7).toNat = 64 + p.toNat := by
  rw [BitVec.toNat_append, ← Nat.shiftLeft_add_eq_or_of_lt p.isLt]
  rfl

/-- An access goes through the stack by the register number or the mode of the operand pointer (20 R194). -/
theorem State.usesStack_iff (s : State) (n : BitVec 5) :
    s.usesStack n = true ↔ n = 6#5 ∨ bitAt (s.operandPointer n) 8 = true := by
  unfold State.usesStack
  rw [Bool.or_eq_true, beq_iff_eq]

/-- The operand pointer after its access, the other one and the Stack Pointer as before. -/
theorem movesOperand_of_bump {s t u : State} {n : BitVec 5} {load : Bool} (stack : s.usesStack n = false)
    (cpc : u.cpc.sptr = s.cpc.sptr ∧ u.cpc.optr1 = s.cpc.optr1 ∧ u.cpc.optr2 = s.cpc.optr2) (bumped : t = u.bumpOperand n) :
    MovesOperand s t n load := by
  obtain ⟨sptr, optr1, optr2⟩ := cpc
  have direct : ¬(n = 6#5 ∨ bitAt (s.operandPointer n) 8 = true) := fun q =>
    absurd (stack.symm.trans ((s.usesStack_iff n).mpr q)) (by decide)
  unfold MovesOperand
  rw [if_neg direct, bumped]
  unfold State.operandPointer State.bumpOperand
  by_cases first : n.toNat < 3
  · obtain ⟨mode, entry⟩ := toNat_bumpPointer n u.cpc.optr1
    simp only [if_pos first]
    rw [optr1] at mode entry ⊢
    exact ⟨sptr, mode, entry, optr2⟩
  · obtain ⟨mode, entry⟩ := toNat_bumpPointer n u.cpc.optr2
    simp only [if_neg first]
    rw [optr2] at mode entry ⊢
    exact ⟨sptr, mode, entry, optr1⟩

/-- The Stack Pointer after its access. -/
theorem movesOperand_of_stack {s t : State} {n : BitVec 5} {load : Bool} (stack : s.usesStack n = true)
    (cpc : t.cpc.sptr = (if load then s.cpc.sptr - 1 else s.cpc.sptr + 1) ∧ t.cpc.optr1 = s.cpc.optr1 ∧ t.cpc.optr2 = s.cpc.optr2) :
    MovesOperand s t n load := by
  obtain ⟨sptr, optr1, optr2⟩ := cpc
  obtain ⟨down, up⟩ := toNat_sptr s.cpc.sptr
  unfold MovesOperand
  rw [if_pos ((s.usesStack_iff n).mp stack), sptr]
  refine ⟨?_, optr1, optr2⟩
  cases load
  · exact up
  · exact down

/-- The entry an access reaches, as its target has it (20 R192 to R195). -/
theorem State.entryOf_eq (s : State) (n : BitVec 5) (load : Bool) :
    (s.usesStack n = true → s.entryOf n load = (2#2 ++ (if load then s.cpc.sptr - 1 else s.cpc.sptr) : BitVec 7).toNat) ∧
    (s.usesStack n = false → s.entryOf n load = ((s.operandPointer n).extractLsb' 0 7).toNat) := by
  obtain ⟨down, -⟩ := toNat_sptr s.cpc.sptr
  have small := s.cpc.sptr.isLt
  unfold State.entryOf
  constructor
  · intro h
    rw [if_pos ((s.usesStack_iff n).mp h), toNat_stackEntry]
    cases load
    · show 64 + (s.cpc.sptr.toNat + 0) % 32 = 64 + s.cpc.sptr.toNat
      omega
    · rw [if_pos rfl, if_pos rfl, down]
  · intro h
    have direct : ¬(n = 6#5 ∨ bitAt (s.operandPointer n) 8 = true) := fun q =>
      absurd (h.symm.trans ((s.usesStack_iff n).mpr q)) (by decide)
    rw [if_neg direct, BitVec.extractLsb'_toNat, Nat.shiftRight_zero]

/-- A pointer moved changes no more than the pointer. -/
theorem State.bumpOperand_keeps (s : State) (n : BitVec 5) :
    { s.bumpOperand n with cpc := { (s.bumpOperand n).cpc with optr1 := s.cpc.optr1, optr2 := s.cpc.optr2 } } = s := by
  unfold State.bumpOperand
  split <;> rfl

/-- Settles O17: the message of the scratch pad word, then the pointer or the stack. -/
theorem scratchPadThroughPointers : Obligations.ScratchPadThroughPointers := by
  intro n k s pointer
  have eru : isPointerEru n = true := decide_eq_true pointer
  have runToe : exec (.toe n k) s = .next (s.pointerStore n (s.rsu k)) := if_pos eru
  have runTie : exec (.tie n k) s = .next (s.pointerFetch n) := if_pos eru
  obtain ⟨storeStack, storeDirect⟩ := s.entryOf_eq n false
  obtain ⟨fetchStack, fetchDirect⟩ := s.entryOf_eq n true
  constructor
  · refine ⟨_, runToe, ?_⟩
    unfold State.pointerStore
    cases stack : s.usesStack n
    · rw [if_neg (by decide), storeDirect stack]
      obtain ⟨place, near⟩ := s.physical_scratchTarget ((s.operandPointer n).extractLsb' 0 7)
      obtain ⟨cpc, ⟨pipe, -⟩, controls, -, stored, -⟩ :=
        s.cpcRealStore_spec (scratchTarget ((s.operandPointer n).extractLsb' 0 7)) 0xF#4 (s.rsu k)
      rw [place] at stored
      generalize s.cpcRealStore _ _ _ = u at *
      have kept := u.bumpOperand_keeps n
      have field := fun {α : Type} (f : Cpc → α) => congrArg f cpc
      have mem : (u.bumpOperand n).mem = u.mem := (congrArg State.mem kept :)
      have atc : (u.bumpOperand n).atc = u.atc := (congrArg State.atc kept :)
      refine ⟨fun wf => (stored wf near).to mem atc, movesOperand_of_bump stack ⟨field Cpc.sptr, field Cpc.optr1, field Cpc.optr2⟩ rfl,
        State.rsu_of_cpc ((congrArg (fun x : State => x.cpc.rsu) kept :).trans (field Cpc.rsu)),
        (congrArg (fun x : State => x.cpc.ind) kept :).trans (field Cpc.ind), ?_, (congrArg State.pipe kept :).trans pipe⟩
      unfold KeepsAtcControls
      rw [atc]
      exact controls
    · rw [if_pos rfl, storeStack stack]
      obtain ⟨place, near⟩ := s.physical_scratchTarget (2#2 ++ s.cpc.sptr)
      obtain ⟨cpc, ⟨pipe, -⟩, controls, -, stored, -⟩ := s.cpcRealStore_spec (scratchTarget (2#2 ++ s.cpc.sptr)) 0xF#4 (s.rsu k)
      rw [place] at stored
      have field := fun {α : Type} (f : Cpc → α) => congrArg f cpc
      exact ⟨fun wf => (stored wf near).to rfl rfl, movesOperand_of_stack stack ⟨rfl, field Cpc.optr1, field Cpc.optr2⟩,
        State.rsu_of_cpc (field Cpc.rsu), field Cpc.ind, controls, pipe⟩
  · refine ⟨_, runTie, ?_⟩
    unfold State.pointerFetch
    cases stack : s.usesStack n
    · rw [if_neg (by decide), fetchDirect stack]
      obtain ⟨place, near⟩ := s.physical_scratchTarget ((s.operandPointer n).extractLsb' 0 7)
      obtain ⟨cpc, mem, ⟨pipe, -⟩, controls, delivers⟩ := s.cpcRealFetch_spec (scratchTarget ((s.operandPointer n).extractLsb' 0 7))
      rw [place] at delivers
      generalize s.cpcRealFetch _ = u at *
      have kept := u.bumpOperand_keeps n
      have field := fun {α : Type} (f : Cpc → α) => congrArg f cpc
      have atc : (u.bumpOperand n).atc = u.atc := (congrArg State.atc kept :)
      have memory : (u.bumpOperand n).mem = s.mem := (congrArg State.mem kept :).trans mem
      refine ⟨(delivers near).to (congrArg (fun x : State => x.cpc.fetch) kept :),
        movesOperand_of_bump stack ⟨field Cpc.sptr, field Cpc.optr1, field Cpc.optr2⟩ rfl,
        State.rsu_of_cpc ((congrArg (fun x : State => x.cpc.rsu) kept :).trans (field Cpc.rsu)),
        (congrArg (fun x : State => x.cpc.ind) kept :).trans (field Cpc.ind), fun a => by rw [memory], ?_,
        (congrArg State.pipe kept :).trans pipe⟩
      unfold KeepsAtcControls
      rw [atc]
      exact controls
    · rw [if_pos rfl, fetchStack stack, if_pos rfl]
      obtain ⟨place, near⟩ := s.physical_scratchTarget (2#2 ++ (s.cpc.sptr - 1))
      obtain ⟨cpc, mem, ⟨pipe, -⟩, controls, delivers⟩ := s.cpcRealFetch_spec (scratchTarget (2#2 ++ (s.cpc.sptr - 1)))
      rw [place] at delivers
      have field := fun {α : Type} (f : Cpc → α) => congrArg f cpc
      exact ⟨(delivers near).to rfl, movesOperand_of_stack stack ⟨rfl, field Cpc.optr1, field Cpc.optr2⟩,
        State.rsu_of_cpc (field Cpc.rsu), field Cpc.ind, fun a => congrArg (fun m : Memory => m.byte a) mem, controls, pipe⟩

end Sys2Proof.Machine
end

section
/-! Virtual messages of the CPC: what goes on to memory and what a condition stops (21, 40). -/

namespace Sys2Proof.Machine

/-! ### What a virtual message reads of a state -/

/-- A virtual message reads the ATC and the platform, nothing else. -/
theorem virtual_of_atc {s u : State} (atc : u.atc = s.atc) (plat : u.plat = s.plat) (a : Word) (pc : BitVec 2) (tags : Digit) :
    (u.Sends a ↔ s.Sends a) ∧ (u.Stops a pc tags ↔ s.Stops a pc tags) ∧ u.landing a = s.landing a ∧
      ∀ t, VirtualLeaves u t a pc tags → VirtualLeaves s t a pc tags := by
  have hits : u.hits a = s.hits a := State.hits_of_atc a (by rw [atc]) (by rw [atc]) (by rw [atc])
  have entry : ∀ i, u.entry i = s.entry i := fun i => State.entry_of_am i (by rw [atc])
  have referenced : ∀ i m, (u.setReferenced i).entry m = (s.setReferenced i).entry m := fun i m => by
    refine State.entry_of_am m ?_
    unfold State.setReferenced
    dsimp only
    rw [entry, atc]
  have lands : u.landing a = s.landing a := by
    unfold State.landing State.mapped State.realAddress State.ca2At
    simp only [hits, entry, atc]
  refine ⟨?_, ?_, lands, fun t leaves => ?_⟩
  · unfold State.Sends State.pageSizeOk State.ca2At
    rw [plat, atc, hits]
  · unfold State.Stops State.Arises State.LetsThrough State.Monitors State.permitted State.ca2At
    simp only [hits, entry, atc]
  · unfold VirtualLeaves LeavesEntries State.Arises State.LetsThrough State.Monitors State.permitted State.eff State.ca2At at leaves ⊢
    simp only [hits, entry, atc, lands, referenced] at leaves ⊢
    exact leaves

/-- What a virtual message leaves is untouched by the memory cycle behind it. -/
theorem VirtualLeaves.cycle {s t u : State} {a : Word} {pc : BitVec 2} {tags : Digit} (h : VirtualLeaves s t a pc tags)
    (cycle : MemoryCycle t u) : VirtualLeaves s u a pc tags := by
  have ita := cycle.field Atc.ita fun _ _ _ _ _ _ _ _ _ _ => rfl
  have varb := cycle.field Atc.varb fun _ _ _ _ _ _ _ _ _ _ => rfl
  have amr := cycle.field Atc.amr fun _ _ _ _ _ _ _ _ _ _ => rfl
  have am := cycle.field Atc.am fun _ _ _ _ _ _ _ _ _ _ => rfl
  have ddr := cycle.field Atc.ddr fun _ _ _ _ _ _ _ _ _ _ => rfl
  have rar := cycle.field Atc.rar fun _ _ _ _ _ _ _ _ _ _ => rfl
  unfold VirtualLeaves LeavesEntries at h ⊢
  simp only [ita, varb, amr, am, ddr, rar, State.entry_of_am (s := t) (t := u) _ am]
  exact h

/-- The translation leaves the Syndrome Register. -/
theorem State.translate_syndrome {s t : State} {a : Word} {pc : BitVec 2} {tags : Digit} {o : Option Target}
    (h : s.translate a pc tags = .ok (o, t)) : t.atc.syn = s.atc.syn ∧ t.atc.synEr = s.atc.synEr := by
  unfold State.translate at h
  dsimp only at h
  split at h
  · cases h; exact ⟨rfl, rfl⟩
  · split at h
    · split at h
      · cases h
      · cases h; exact ⟨rfl, rfl⟩
    · split at h
      · cases h; exact ⟨rfl, rfl⟩
      · cases h; exact ⟨rfl, rfl⟩
    · cases h

/-- A virtual message up to its real half leaves the Syndrome Register. -/
theorem State.virtualOp_syndrome {s t : State} {a : Word} {pc : BitVec 2} {tags : Digit} {o : Option Target}
    (h : s.virtualOp a pc tags = .ok (o, t)) : t.atc.syn = s.atc.syn ∧ t.atc.synEr = s.atc.synEr := by
  unfold State.virtualOp at h
  split at h
  · cases h
  split at h
  · cases h
  split at h
  · cases h
  split at h
  · cases h
  exact State.translate_syndrome h

/-- A virtual message of the CPC up to its real half: stopped, or going on to its word; what it has left, and what it has kept. -/
theorem State.cpcTranslates (s : State) (a : Word) (pc : BitVec 2) (tags : Digit) (sends : s.Sends (virtualWord a pc)) :
    ∃ o t, s.dropFetch.virtualOp a pc tags = .ok (o, t) ∧ t.cpc = { s.cpc with fetch := none } ∧ KeepsMachine s t ∧
      SeesMemory s t ∧ SameSyndrome s t ∧ KeepsAtcControls s t ∧ VirtualLeaves s t (virtualWord a pc) pc tags ∧
      (s.Stops (virtualWord a pc) pc tags → o = none) ∧
      (¬s.Stops (virtualWord a pc) pc tags → ∃ w, o = some w ∧ s.physical w = s.landing (virtualWord a pc) ∧
        (s.landing (virtualWord a pc) < s.memWords → s.beyond w = false)) := by
  obtain ⟨o, t, run, kept, controls, leaves, stops, goes⟩ := s.dropFetch_virtualOp_spec a pc tags sends
  obtain ⟨syn, synEr⟩ := State.virtualOp_syndrome run
  obtain ⟨-, dropSyn, dropSynEr, -⟩ := s.dropFetch_sees
  have field : ∀ {α : Type} (f : State → α), f { t with atc := s.atc, fresh := s.fresh } =
      f { s with cpc := { s.cpc with fetch := none } } :=
    fun f => congrArg f kept
  obtain ⟨ca2, -, -, -, -, -, -, -, synLock⟩ := id controls
  refine ⟨o, t, run, field State.cpc, ⟨field State.pipe, field State.plat, field State.bkpt, field State.inputs, field State.now⟩,
    ⟨field State.mem, field State.plat, ca2⟩, ⟨syn.trans dropSyn, synEr.trans dropSynEr, synLock⟩, controls, leaves, stops,
    fun go => ?_⟩
  obtain ⟨wa, rfl, lands⟩ := goes go
  refine ⟨_, rfl, lands, fun inside => ?_⟩
  unfold State.beyond
  rw [Bool.not_false, Bool.true_and]
  exact decide_eq_false (by rw [lands]; omega)

/-! ### Virtual fetches -/

/-- A virtual fetch of the CPC (20 R197; 21 R222). -/
theorem State.cpcVirtualFetch_spec (s : State) (a : Word) (pc : BitVec 2) (sends : s.Sends (virtualWord a pc)) :
    ∃ u, s.cpcVirtualFetch a pc = .ok u ∧ { u.cpc with fetch := none } = { s.cpc with fetch := none } ∧ u.mem = s.mem ∧
      KeepsMachine s u ∧ KeepsAtcControls s u ∧ VirtualLeaves s u (virtualWord a pc) pc 0#4 ∧
      (s.Stops (virtualWord a pc) pc 0#4 → u.cpc.fetch = some { data := none, age := 0 }) ∧
      (¬s.Stops (virtualWord a pc) pc 0#4 → (∃ f, u.cpc.fetch = some { data := some f, age := 0 }) ∧
        (s.landing (virtualWord a pc) < s.memWords → WillDeliver s u (s.landing (virtualWord a pc)))) := by
  obtain ⟨o, t, run, cpc, machine, sees, -, controls, leaves, stops, goes⟩ := s.cpcTranslates a pc 0#4 sends
  have mem : t.mem = s.mem := sees.1
  by_cases stopped : s.Stops (virtualWord a pc) pc 0#4
  · obtain rfl := stops stopped
    refine ⟨(t.sequence 0#4 false).pendFetch none, ?_, ?_, mem, machine, controls, leaves.cycle rfl, fun _ => rfl,
      fun go => absurd stopped go⟩
    · unfold State.cpcVirtualFetch
      rw [run]
    · rw [State.pendFetch_cpc, State.sequence_cpc, cpc]
  · obtain ⟨w, rfl, place, near⟩ := goes stopped
    have cycle : MemoryCycle t ((t.sequence 0#4 true).fetchWord w).2 :=
      (t.sequence_cycle 0#4 true).trans ((t.sequence 0#4 true).fetchWord_cycle w)
    obtain ⟨fCpc, fPipe, fMem, fPlat, fBkpt, fInputs, fNow⟩ := (t.sequence 0#4 true).fetchWord_onlyAtc w
    have sees' : SeesMemory s (t.sequence 0#4 true) := sees
    refine ⟨((t.sequence 0#4 true).fetchWord w).2.pendFetch (some ((t.sequence 0#4 true).fetchWord w).1), ?_, ?_, fMem.trans mem,
      machine.trans ⟨fPipe, fPlat, fBkpt, fInputs, fNow⟩, controls.trans cycle.controls, leaves.cycle cycle,
      fun h => absurd h stopped, fun _ => ⟨⟨_, rfl⟩, fun inside => ?_⟩⟩
    · unfold State.cpcVirtualFetch
      rw [run]
    · rw [State.pendFetch_cpc, fCpc, State.sequence_cpc, cpc]
    · rw [← place]
      exact State.fetchWord_delivers sees' w (near inside) rfl

/-- What a virtual fetch instruction does behind the message: `SR` has the code, the registers `ks` are loaded with `v`. -/
def EndsFetch (u t : State) (pc : BitVec 2) (v : Word) (ks : List RsuNum) : Prop :=
  t.atc = u.atc ∧ t.mem = u.mem ∧ KeepsMachine u t ∧ { t.cpc with rsu := u.cpc.rsu, sr := u.cpc.sr } = u.cpc ∧
    (∀ b, 1 ≤ b → b ≤ 14 → bitAt t.cpc.sr b = bitAt u.cpc.sr b) ∧ t.cpc.sr.extractLsb' 14 2 = pc ∧ KeepsRsu u t ks ∧
    ∀ r ∈ ks, t.rsu r = v

/-- `SR` with a code (40 R364). -/
theorem captured_code (sr : Half) (pc : BitVec 2) : (pc ++ sr.extractLsb' 0 14 : Half).extractLsb' 14 2 = pc ∧
    ∀ b, 1 ≤ b → b ≤ 14 → bitAt (pc ++ sr.extractLsb' 0 14 : Half) b = bitAt sr b := by
  constructor
  · apply BitVec.eq_of_getLsbD_eq
    intro i hi
    rw [BitVec.getLsbD_extractLsb', decide_eq_true hi, Bool.true_and, BitVec.getLsbD_append, if_neg (by omega), Nat.add_sub_cancel_left]
  · intro b h1 h14
    rw [bitAt_append _ _ h1 h14, bitAt_low _ h1 h14]

/-- A fetch that loads no register. -/
theorem endsFetch_capture (u : State) (pc : BitVec 2) (v : Word) : EndsFetch u (u.captureFetch pc) pc v [] := by
  obtain ⟨code, bits⟩ := captured_code u.cpc.sr pc
  exact ⟨rfl, rfl, ⟨rfl, rfl, rfl, rfl, rfl⟩, rfl, bits, code, fun _ _ => rfl, fun _ h => absurd h List.not_mem_nil⟩

/-- A fetch that loads the register `j`. -/
theorem endsFetch_load (u : State) (pc : BitVec 2) (v : Word) (j : RsuNum) :
    EndsFetch u ((u.captureFetch pc).setRsu j v) pc v [j] := by
  obtain ⟨code, bits⟩ := captured_code u.cpc.sr pc
  refine ⟨rfl, rfl, ⟨rfl, rfl, rfl, rfl, rfl⟩, rfl, bits, code, fun r hr => ?_, fun r hr => ?_⟩
  · rw [State.rsu_setRsu, if_neg fun e : j = r => hr (List.mem_singleton.mpr e.symm)]
    rfl
  · obtain rfl := List.mem_singleton.mp hr
    exact State.rsu_setRsu_same _ _

/-- A fetch with the code of `SR`. -/
theorem endsFetch_again {u : State} {pc : BitVec 2} (v : Word) (code : u.cpc.sr.extractLsb' 14 2 = pc) : EndsFetch u u pc v [] :=
  ⟨rfl, rfl, ⟨rfl, rfl, rfl, rfl, rfl⟩, rfl, fun _ _ _ => rfl, code, fun _ _ => rfl, fun _ h => absurd h List.not_mem_nil⟩

/-- A virtual fetch instruction from `a` with the code `pc` that ends with `g`. -/
def FetchesThrough (s : State) (i : Instr) (a : Word) (pc : BitVec 2) (v : Word) (ks : List RsuNum) : Prop :=
  ∃ g, exec i s = settle (s.cpcVirtualFetch a pc) g ∧ ∀ u : State, u.cpc.sr = s.cpc.sr → EndsFetch u (g u) pc v ks

/-- What every virtual fetch instruction does, stopped or not. -/
theorem FetchesThrough.runs {s : State} {i : Instr} {a : Word} {pc : BitVec 2} {v : Word} {ks : List RsuNum}
    (h : FetchesThrough s i a pc v ks) (sends : s.Sends (virtualWord a pc)) :
    ∃ t, exec i s = .next t ∧ VirtualLeaves s t (virtualWord a pc) pc 0#4 ∧ KeepsRsu s t ks ∧ (∀ r ∈ ks, t.rsu r = v) ∧
      t.mem = s.mem ∧ t.cpc.ind = s.cpc.ind ∧ (∀ b, 1 ≤ b → b ≤ 14 → bitAt t.cpc.sr b = bitAt s.cpc.sr b) ∧
      t.cpc.sr.extractLsb' 14 2 = pc ∧ t.cpc.wtr = s.cpc.wtr ∧ t.cpc.m6wt = s.cpc.m6wt ∧ KeepsOutsideMemory s t ∧
      KeepsAtcControls s t ∧ t.pipe = s.pipe ∧
      (s.Stops (virtualWord a pc) pc 0#4 → t.cpc.fetch = some { data := none, age := 0 }) ∧
      (¬s.Stops (virtualWord a pc) pc 0#4 → (∃ f, t.cpc.fetch = some { data := some f, age := 0 }) ∧
        (s.landing (virtualWord a pc) < s.memWords → WillDeliver s t (s.landing (virtualWord a pc)))) := by
  obtain ⟨g, run, ends⟩ := h
  obtain ⟨u, fetched, cpc, mem, machine, controls, leaves, stopped, goes⟩ := s.cpcVirtualFetch_spec a pc sends
  have field := fun {α : Type} (f : Cpc → α) => congrArg f cpc
  have uSr : u.cpc.sr = s.cpc.sr := field Cpc.sr
  obtain ⟨tAtc, tMem, tMachine, tCpc, bits, code, others, loaded⟩ := ends u uSr
  have fieldT := fun {α : Type} (f : Cpc → α) => congrArg f tCpc
  have tFetch : (g u).cpc.fetch = u.cpc.fetch := fieldT Cpc.fetch
  refine ⟨g u, by rw [run, fetched]; rfl, leaves.cycle (.of_eq tAtc), fun r hr => ?_, loaded, tMem.trans mem,
    (fieldT Cpc.ind).trans (field Cpc.ind), fun b h1 h14 => ?_, code, (fieldT Cpc.wtr).trans (field Cpc.wtr),
    (fieldT Cpc.m6wt).trans (field Cpc.m6wt), (machine.trans tMachine).outsideMemory ?_, ?_, (machine.trans tMachine).1, fun stop => ?_,
    fun go => ?_⟩
  · rw [others r hr]
    exact State.rsu_of_cpc (field Cpc.rsu) r
  · rw [bits b h1 h14, uSr]
  · have both := congrArg (fun c : Cpc => { c with
      rsu := s.cpc.rsu, sr := s.cpc.sr, wtr := s.cpc.wtr, m6wt := s.cpc.m6wt, fetch := s.cpc.fetch }) tCpc
    have first := congrArg (fun c : Cpc => { c with
      rsu := s.cpc.rsu, sr := s.cpc.sr, wtr := s.cpc.wtr, m6wt := s.cpc.m6wt, fetch := s.cpc.fetch }) cpc
    exact both.trans first
  · unfold KeepsAtcControls
    rw [tAtc]
    exact controls
  · rw [tFetch, stopped stop]
  · obtain ⟨⟨f, word⟩, delivers⟩ := goes go
    exact ⟨⟨f, tFetch.trans word⟩, fun inside => (delivers inside).to tFetch⟩

/-- F, LFA, LFAL and LFD while address translation is on. -/
theorem fetchesThrough_of_on {s : State} (on : s.ca1At 12 = true) (j k : RsuNum) :
    FetchesThrough s (.f k) (s.rsu k) (if k = 14#4 then 3#2 else 0#2) (s.rsu k + 0) [] ∧
    FetchesThrough s (.lfa j k) (s.rsu k) (if k = 14#4 then 3#2 else 0#2) (s.rsu k + 4) [j] ∧
    FetchesThrough s (.lfal j k) (s.rsu k) 2#2 (s.rsu k + 4) [j] ∧
    FetchesThrough s (.lfd j k) (s.rsu k) (if k = 14#4 then 3#2 else 0#2) (s.rsu k + -4) [j] := by
  have through : ∀ (pc : BitVec 2) (f : State → State),
      fetchAt s (s.rsu k) pc f = settle (s.cpcVirtualFetch (s.rsu k) pc) fun t => f (t.captureFetch pc) := fun pc f => if_pos on
  have less : s.rsu k - 4 = s.rsu k + -4 := BitVec.sub_eq_add_neg _ _
  refine ⟨⟨_, through _ id, fun u _ => endsFetch_capture u _ _⟩,
    ⟨_, through _ fun t => t.setRsu j (s.rsu k + 4), fun u _ => endsFetch_load u _ _ j⟩,
    ⟨_, through _ fun t => t.setRsu j (s.rsu k + 4), fun u _ => endsFetch_load u _ _ j⟩,
    ⟨_, through _ fun t => t.setRsu j (s.rsu k - 4), fun u _ => ?_⟩⟩
  rw [less]
  exact endsFetch_load u _ _ j

/-- MRR that is virtual and repeats a fetch (40 R366). -/
theorem fetchesThrough_mrr {s : State} (k : RsuNum) (virt : s.ca1At 12 = true ∨ s.plat.mrrIgnoresAt = true)
    (fetch : s.cpc.sr.extractLsb' 14 2 ≠ 1#2) :
    FetchesThrough s (.mrr k) (s.rsu k) (s.cpc.sr.extractLsb' 14 2) (s.rsu k + 0) [] := by
  refine ⟨id, ?_, fun u same => endsFetch_again _ (by rw [same])⟩
  show execMrr k s = _
  unfold execMrr
  dsimp only
  rw [if_neg fetch, if_pos (Bool.or_eq_true_iff.mpr virt)]

/-- Settles O22: the fetches through the translation that nothing stops. -/
theorem translatedFetches : Obligations.TranslatedFetches := by
  intro j k s fetches
  have lift : ∀ {i : Instr} {pc : BitVec 2} {d : Word} {ks : List RsuNum}, FetchesThrough s i (s.rsu k) pc (s.rsu k + d) ks →
      fetches i pc d ks := by
    intro i pc d ks h sends go
    obtain ⟨t, run, leaves, others, loaded, mem, ind, bits, code, wtr, m6wt, frame, controls, -, -, goes⟩ := h.runs sends
    obtain ⟨word, delivers⟩ := goes go
    exact ⟨t, run, delivers, word, leaves, others, loaded, mem, ind, bits, code, wtr, m6wt, frame, controls⟩
  refine ⟨fun on => ?_, fun virt code => lift (fetchesThrough_mrr k virt code)⟩
  obtain ⟨f, lfa, lfal, lfd⟩ := fetchesThrough_of_on on j k
  exact ⟨lift f, lift lfa, lift lfal, lift lfd⟩

/-! ### Virtual stores -/

/-- A virtual store of the CPC (20 R197; 21 R222). -/
theorem State.cpcVirtualStore_spec (s : State) (a : Word) (tags : Digit) (d : Word) (sends : s.Sends (virtualWord a 1#2)) :
    ∃ u, s.cpcVirtualStore a tags d = .ok u ∧ u.cpc = { s.cpc with fetch := none } ∧ KeepsMachine s u ∧ KeepsAtcControls s u ∧
      VirtualLeaves s u (virtualWord a 1#2) 1#2 tags ∧ (s.Stops (virtualWord a 1#2) 1#2 tags → u.mem = s.mem) ∧
      (¬s.Stops (virtualWord a 1#2) 1#2 tags →
        (s.mem.wf = true → s.landing (virtualWord a 1#2) < s.memWords → StoresAt s u (s.landing (virtualWord a 1#2)) tags d) ∧
        ∀ m, m < 4 * s.landing (virtualWord a 1#2) ∨ 4 * s.landing (virtualWord a 1#2) + 4 ≤ m → u.mem.byte m = s.mem.byte m) := by
  obtain ⟨o, t, run, cpc, machine, sees, syndrome, controls, leaves, stops, goes⟩ := s.cpcTranslates a 1#2 tags sends
  have mem : t.mem = s.mem := sees.1
  by_cases stopped : s.Stops (virtualWord a 1#2) 1#2 tags
  · obtain rfl := stops stopped
    refine ⟨{ t.sequence tags false with atc := { (t.sequence tags false).atc with pd := d } }, ?_, cpc, machine, controls,
      leaves.cycle rfl, fun _ => mem, fun go => absurd stopped go⟩
    unfold State.cpcVirtualStore
    rw [run]
  · obtain ⟨w, rfl, place, near⟩ := goes stopped
    have cycle : MemoryCycle t ((t.sequence tags true).storeWord w tags d) :=
      (t.sequence_cycle tags true).trans ((t.sequence tags true).storeWord_cycle w tags d)
    obtain ⟨sCpc, sPipe, sPlat, sBkpt, sInputs, sNow⟩ := (t.sequence tags true).storeWord_keeps w tags d
    have sees' : SeesMemory s (t.sequence tags true) := sees
    have syndrome' : SameSyndrome s (t.sequence tags true) := syndrome
    obtain ⟨-, stored, others⟩ := State.storeWord_from sees' syndrome' w tags d
    rw [place] at stored others
    refine ⟨(t.sequence tags true).storeWord w tags d, ?_, sCpc.trans cpc, machine.trans ⟨sPipe, sPlat, sBkpt, sInputs, sNow⟩,
      controls.trans cycle.controls, leaves.cycle cycle, fun h => absurd h stopped,
      fun _ => ⟨fun wf inside => stored wf (near inside), others⟩⟩
    unfold State.cpcVirtualStore
    rw [run]

/-- A store instruction of a pair, from the state with its tags taken, as `SR` has it for a retry (40 R363, R364). -/
theorem State.virtualPair_spec (s : State) (j : Lit4) (k : RsuNum) (f : State → State) (tagged : s.storeTags j ≠ 0#4)
    (sends : s.Sends (virtualWord (s.rsu (evenOf k)) 1#2)) :
    let a := virtualWord (s.rsu (evenOf k)) 1#2
    let tags := s.storeTags j
    ∃ u, storePair s true j k f = .next (f u) ∧ u.cpc = { s.cpc with
        fetch := none
        wtr := tags
        m6wt := if k = 12#4 ∨ k = 13#4 then 0#4 else s.cpc.m6wt
        sr := 1#2 ++ oddOf k ++ tags ++ s.cpc.sr.extractLsb' 0 6 } ∧
      KeepsMachine s u ∧ KeepsAtcControls s u ∧ VirtualLeaves s u a 1#2 tags ∧ (s.Stops a 1#2 tags → u.mem = s.mem) ∧
      (¬s.Stops a 1#2 tags →
        (s.mem.wf = true → s.landing a < s.memWords → StoresAt s u (s.landing a) tags (s.rsu (oddOf k))) ∧
        ∀ m, m < 4 * s.landing a ∨ 4 * s.landing a + 4 ≤ m → u.mem.byte m = s.mem.byte m) := by
  intro a tags
  obtain ⟨sendsT, stopsT, landingT, leavesT⟩ :=
    virtual_of_atc (s := s) (u := s.takeTags j k) rfl rfl (virtualWord (s.rsu (evenOf k)) 1#2) 1#2 (s.storeTags j)
  obtain ⟨u, stored, cpc, machine, controls, leaves, stopped, goes⟩ :=
    (s.takeTags j k).cpcVirtualStore_spec (s.rsu (evenOf k)) (s.storeTags j) (s.rsu (oddOf k)) (sendsT.mpr sends)
  rw [landingT] at goes
  refine ⟨u.captureStore (oddOf k) tags, ?_, ?_, machine, controls, (leavesT u leaves).cycle (.of_eq rfl),
    fun stop => stopped (stopsT.mpr stop), fun go => ?_⟩
  · unfold storePair
    dsimp only
    rw [if_neg tagged, if_pos rfl, stored]
    rfl
  · unfold State.captureStore
    rw [State.setSr_cpc, cpc]
    rfl
  · obtain ⟨near, others⟩ := goes fun h => go (stopsT.mp h)
    exact ⟨fun wf inside => ((near wf inside).from ⟨rfl, rfl, rfl⟩ ⟨rfl, rfl, rfl⟩).to rfl rfl, others⟩

/-- A store instruction that is virtual ends with the address register moved, or not. -/
theorem storePair_virtual {s : State} (on : s.ca1At 12 = true) (j : Lit4) (k : RsuNum) :
    exec (.s j k) s = storePair s true j k id ∧
    exec (.sa j k) s = storePair s true j k (fun t => t.setRsu (evenOf k) (s.rsu (evenOf k) + 4)) ∧
    exec (.sd j k) s = storePair s true j k (fun t => t.setRsu (evenOf k) (s.rsu (evenOf k) + -4)) := by
  have less : s.rsu (evenOf k) - 4 = s.rsu (evenOf k) + -4 := BitVec.sub_eq_add_neg _ _
  rw [← less]
  refine ⟨?_, ?_, ?_⟩
  · show storePair s (s.ca1At 12) j k id = _
    rw [on]
  · show storePair s (s.ca1At 12) j k (fun t => t.setRsu (evenOf k) (s.rsu (evenOf k) + 4)) = _
    rw [on]
  · show storePair s (s.ca1At 12) j k (fun t => t.setRsu (evenOf k) (s.rsu (evenOf k) - 4)) = _
    rw [on]

/-- MRR that is virtual and repeats a store (40 R366). -/
theorem exec_mrr_store {s : State} (k : RsuNum) (virt : s.ca1At 12 = true ∨ s.plat.mrrIgnoresAt = true)
    (store : s.cpc.sr.extractLsb' 14 2 = 1#2) (tagged : s.cpc.sr.extractLsb' 6 4 ≠ 0#4) :
    exec (.mrr k) s = settle (s.cpcVirtualStore (s.rsu k) (s.cpc.sr.extractLsb' 6 4) (s.rsu (s.cpc.sr.extractLsb' 10 4)))
      fun t => t.void 2 := by
  show execMrr k s = _
  unfold execMrr
  dsimp only
  rw [if_pos store, if_neg tagged, if_pos (Bool.or_eq_true_iff.mpr virt)]

/-- What a virtual store instruction leaves, the address register moving by `d` if it is in `ks` (40 R363, R374 to R376). -/
def StoresThrough (s : State) (i : Instr) (k : RsuNum) (tags : Digit) (d : Word) (ks : List RsuNum) : Prop :=
  let a := virtualWord (s.rsu (evenOf k)) 1#2
  ∃ t, exec i s = .next t ∧ VirtualLeaves s t a 1#2 tags ∧ KeepsAtcControls s t ∧ KeepsRsu s t ks ∧
    (∀ q ∈ ks, t.rsu q = s.rsu (evenOf k) + d) ∧ (ks ≠ [] → t.rsu (evenOf k) = s.rsu (evenOf k) + d) ∧
    t.cpc.sr = 1#2 ++ oddOf k ++ tags ++ s.cpc.sr.extractLsb' 0 6 ∧ t.cpc.wtr = tags ∧
    t.cpc.m6wt = (if k = 12#4 ∨ k = 13#4 then 0#4 else s.cpc.m6wt) ∧ t.cpc.ind = s.cpc.ind ∧ t.cpc.fetch = none ∧
    KeepsOutsideMemory s t ∧ (s.Stops a 1#2 tags → t.mem = s.mem) ∧
    (¬s.Stops a 1#2 tags →
      (s.mem.wf = true → s.landing a < s.memWords → StoresAt s t (s.landing a) tags (s.rsu (oddOf k))) ∧
      ∀ m, m < 4 * s.landing a ∨ 4 * s.landing a + 4 ≤ m → t.mem.byte m = s.mem.byte m)

/-- A virtual store of a pair, and no more. -/
theorem State.storesThrough {s : State} {i : Instr} {j : Lit4} {k : RsuNum} (d : Word) (h : exec i s = storePair s true j k id)
    (tagged : s.storeTags j ≠ 0#4) (sends : s.Sends (virtualWord (s.rsu (evenOf k)) 1#2)) :
    StoresThrough s i k (s.storeTags j) d [] := by
  obtain ⟨u, run, cpc, machine, controls, leaves, stopped, goes⟩ := s.virtualPair_spec j k id tagged sends
  have field := fun {α : Type} (f : Cpc → α) => congrArg f cpc
  refine ⟨u, h.trans run, leaves, controls, fun r _ => State.rsu_of_cpc (field Cpc.rsu) r, fun q hq => absurd hq List.not_mem_nil,
    fun none => absurd rfl none, field Cpc.sr, field Cpc.wtr, field Cpc.m6wt, field Cpc.ind, field Cpc.fetch,
    machine.outsideMemory ?_, stopped, goes⟩
  rw [cpc]

/-- A virtual store of a pair, the address register moving. -/
theorem State.storesThrough_moving {s : State} {i : Instr} {j : Lit4} {k : RsuNum} {d : Word}
    (h : exec i s = storePair s true j k fun t => t.setRsu (evenOf k) (s.rsu (evenOf k) + d))
    (tagged : s.storeTags j ≠ 0#4) (sends : s.Sends (virtualWord (s.rsu (evenOf k)) 1#2)) :
    StoresThrough s i k (s.storeTags j) d [evenOf k] := by
  obtain ⟨u, run, cpc, machine, controls, leaves, stopped, goes⟩ :=
    s.virtualPair_spec j k (fun t => t.setRsu (evenOf k) (s.rsu (evenOf k) + d)) tagged sends
  have field := fun {α : Type} (f : Cpc → α) => congrArg f cpc
  have moved : (u.setRsu (evenOf k) (s.rsu (evenOf k) + d)).rsu (evenOf k) = s.rsu (evenOf k) + d := State.rsu_setRsu_same _ _
  refine ⟨_, h.trans run, leaves.cycle (.of_eq rfl), controls, fun r hr => ?_, fun q hq => ?_, fun _ => moved, field Cpc.sr,
    field Cpc.wtr, field Cpc.m6wt, field Cpc.ind, field Cpc.fetch, KeepsMachine.outsideMemory machine ?_, stopped, fun go => ?_⟩
  · rw [State.rsu_setRsu, if_neg fun e : evenOf k = r => hr (List.mem_singleton.mpr e.symm)]
    exact State.rsu_of_cpc (field Cpc.rsu) r
  · obtain rfl := List.mem_singleton.mp hq
    exact moved
  · rw [State.setRsu_cpc, cpc]
  · obtain ⟨near, others⟩ := goes go
    exact ⟨fun wf inside => (near wf inside).to rfl rfl, others⟩

/-- S, SA and SD while address translation is on. -/
theorem storesThrough_of_on {s : State} (on : s.ca1At 12 = true) (j : Lit4) (k : RsuNum) (tagged : s.storeTags j ≠ 0#4)
    (sends : s.Sends (virtualWord (s.rsu (evenOf k)) 1#2)) : StoresThrough s (.s j k) k (s.storeTags j) 0 [] ∧
    StoresThrough s (.sa j k) k (s.storeTags j) 4 [evenOf k] ∧ StoresThrough s (.sd j k) k (s.storeTags j) (-4) [evenOf k] := by
  obtain ⟨runS, runSa, runSd⟩ := storePair_virtual on j k
  exact ⟨State.storesThrough 0 runS tagged sends, State.storesThrough_moving runSa tagged sends,
    State.storesThrough_moving runSd tagged sends⟩

/-- Settles O23: the stores through the translation that nothing stops. -/
theorem translatedStores : Obligations.TranslatedStores := by
  intro j k s stored stores
  have lift : ∀ {i : Instr} {d : Word} {ks : List RsuNum},
      (s.storeTags j ≠ 0#4 → s.Sends (virtualWord (s.rsu (evenOf k)) 1#2) → StoresThrough s i k (s.storeTags j) d ks) →
      stores i d ks := by
    intro i d ks h tagged sends go
    obtain ⟨t, run, leaves, controls, others, -, moved, sr, wtr, m6wt, ind, -, frame, -, goes⟩ := h tagged sends
    obtain ⟨near, outside⟩ := goes go
    exact ⟨t, run, ⟨near, outside, leaves, controls⟩, others, moved, sr, wtr, m6wt, ind, frame⟩
  refine ⟨fun on => ⟨lift fun tagged sends => ?_, lift fun tagged sends => ?_, lift fun tagged sends => ?_⟩, ?_⟩
  · obtain ⟨plain, -, -⟩ := storesThrough_of_on on j k tagged sends
    exact plain
  · obtain ⟨-, up, -⟩ := storesThrough_of_on on j k tagged sends
    exact up
  · obtain ⟨-, -, down⟩ := storesThrough_of_on on j k tagged sends
    exact down
  · intro tags a virt store tagged sends go
    obtain ⟨u, run, cpc, ⟨pipe, -⟩, controls, leaves, -, goes⟩ :=
      s.cpcVirtualStore_spec (s.rsu k) tags (s.rsu (s.cpc.sr.extractLsb' 10 4)) sends
    obtain ⟨near, outside⟩ := goes go
    refine ⟨u.void 2, ?_, ⟨fun wf inside => (near wf inside).to rfl rfl, outside, leaves.cycle (.of_eq rfl), controls⟩, cpc, ?_⟩
    · rw [exec_mrr_store k virt store tagged, run]
      rfl
    · rw [State.void_pipe, pipe]

/-- Settles O24: the same messages where a condition stops them. -/
theorem abortedVirtualOperations : Obligations.AbortedVirtualOperations := by
  constructor
  · intro j k s fetches
    have lift : ∀ {i : Instr} {pc : BitVec 2} {d : Word} {ks : List RsuNum}, FetchesThrough s i (s.rsu k) pc (s.rsu k + d) ks →
        fetches i pc d ks := by
      intro i pc d ks h sends stop
      obtain ⟨t, run, leaves, others, loaded, mem, ind, -, code, -, -, -, controls, pipe, stopped, -⟩ := h.runs sends
      exact ⟨t, run, stopped stop, leaves, mem, others, loaded, ind, code, pipe, controls⟩
    refine ⟨fun on => ?_, fun virt code => lift (fetchesThrough_mrr k virt code)⟩
    obtain ⟨f, lfa, lfal, lfd⟩ := fetchesThrough_of_on on j k
    exact ⟨lift f, lift lfa, lift lfal, lift lfd⟩
  · intro j k s stores tags
    have lift : ∀ {i : Instr} {d : Word} {ks : List RsuNum},
        (s.storeTags j ≠ 0#4 → s.Sends (virtualWord (s.rsu (evenOf k)) 1#2) → StoresThrough s i k (s.storeTags j) d ks) →
        stores i (evenOf k) tags d ks := by
      intro i d ks h tagged sends stop
      obtain ⟨t, run, leaves, controls, others, moved, -, -, -, -, ind, fetch, -, stopped, -⟩ := h tagged sends
      exact ⟨t, run, stopped stop, leaves, fetch, others, moved, ind, controls⟩
    refine ⟨fun on => ⟨lift fun tagged sends => ?_, lift fun tagged sends => ?_, lift fun tagged sends => ?_⟩, fun virt store => ?_⟩
    · obtain ⟨plain, -, -⟩ := storesThrough_of_on on j k tagged sends
      exact plain
    · obtain ⟨-, up, -⟩ := storesThrough_of_on on j k tagged sends
      exact up
    · obtain ⟨-, -, down⟩ := storesThrough_of_on on j k tagged sends
      exact down
    · intro tagged sends stop
      obtain ⟨u, run, cpc, -, controls, leaves, stopped, -⟩ :=
        s.cpcVirtualStore_spec (s.rsu k) (s.cpc.sr.extractLsb' 6 4) (s.rsu (s.cpc.sr.extractLsb' 10 4)) sends
      have field := fun {α : Type} (f : Cpc → α) => congrArg f cpc
      refine ⟨u.void 2, ?_, stopped stop, leaves.cycle (.of_eq rfl), field Cpc.fetch, fun r _ => State.rsu_of_cpc (field Cpc.rsu) r,
        fun q hq => absurd hq List.not_mem_nil, field Cpc.ind, controls⟩
      rw [exec_mrr_store k virt store tagged, run]
      rfl

end Sys2Proof.Machine
end

section
/-! The external registers: plain ones, the Syndrome Register, the ATC's addresses, and the messages of other devices (11, 22, 41). -/

namespace Sys2Proof.Machine

/-! ### Register messages of the CPC -/

/-- The number of an external register, with its 32 (20 R190). -/
theorem toNat_eru (n : BitVec 5) : (1#2 ++ n : BitVec 7).toNat = 32 + n.toNat := by
  rw [BitVec.toNat_append, ← Nat.shiftLeft_add_eq_or_of_lt n.isLt]
  rfl

/-- An external register number that is no scratch pad reference. -/
theorem isPointerEru_of_high {n : BitVec 5} (h : 7 ≤ n.toNat) : isPointerEru n = false := decide_eq_false (by omega)

/-- TOE to a register of the ATC (41 R394). -/
theorem exec_toe {n : BitVec 5} (h : 7 ≤ n.toNat) (k : RsuNum) (s : State) :
    exec (.toe n k) s = settle (s.dropFetch.eruWrite (1#2 ++ n) (s.rsu k)) id :=
  if_neg (by rw [isPointerEru_of_high h]; decide)

/-- TIE from a register of the ATC (41 R392). -/
theorem exec_tie {n : BitVec 5} (h : 7 ≤ n.toNat) (k : RsuNum) (s : State) :
    exec (.tie n k) s = receiveRegister (s.dropFetch.eruRead (1#2 ++ n)) k :=
  if_neg (by rw [isPointerEru_of_high h]; decide)

/-- TOE that the ATC takes: the general registers, the indicators, memory and the pipeline stay. -/
theorem exec_toe_of {n : BitVec 5} (h : 7 ≤ n.toNat) (k : RsuNum) {s t : State}
    (write : s.dropFetch.eruWrite (1#2 ++ n) (s.rsu k) = .ok t) :
    exec (.toe n k) s = .next t ∧ (∀ r, t.rsu r = s.rsu r) ∧ t.cpc.ind = s.cpc.ind ∧ t.mem = s.mem ∧ t.pipe = s.pipe := by
  obtain ⟨cpc, pipe, mem, -⟩ := State.eruWrite_onlyAtc _ _ _ _ write
  obtain ⟨-, -, dropCpc, dropMem, dropPipe, -⟩ := s.dropFetch_keeps
  have field := fun {α : Type} (f : Cpc → α) => (congrArg f cpc).trans (congrArg f dropCpc)
  exact ⟨by rw [exec_toe h, write]; rfl, State.rsu_of_cpc (field Cpc.rsu), field Cpc.ind, mem.trans dropMem, pipe.trans dropPipe⟩

/-- TIE that the ATC answers: the word in its register; the others, the indicators, memory and the pipeline stay. -/
theorem exec_tie_of {n : BitVec 5} (h : 7 ≤ n.toNat) (k : RsuNum) {s t : State} {w : Word}
    (read : s.dropFetch.eruRead (1#2 ++ n) = .ok (w, t)) :
    exec (.tie n k) s = .next (t.setRsu k w) ∧ (t.setRsu k w).rsu k = w ∧ KeepsRsu s (t.setRsu k w) [k] ∧
      (t.setRsu k w).cpc.ind = s.cpc.ind ∧ (t.setRsu k w).mem = s.mem ∧ (t.setRsu k w).pipe = s.pipe := by
  obtain ⟨cpc, pipe, mem, -⟩ := State.eruRead_onlyAtc _ _ _ _ read
  obtain ⟨-, -, dropCpc, dropMem, dropPipe, -⟩ := s.dropFetch_keeps
  have field := fun {α : Type} (f : Cpc → α) => (congrArg f cpc).trans (congrArg f dropCpc)
  refine ⟨by rw [exec_tie h, read]; rfl, State.rsu_setRsu_same _ _, fun r hr => ?_, field Cpc.ind, mem.trans dropMem,
    pipe.trans dropPipe⟩
  rw [State.rsu_setRsu, if_neg fun e : k = r => hr (List.mem_singleton.mpr e.symm)]
  exact State.rsu_of_cpc (field Cpc.rsu) r

/-- An ATC that is there is there for the message. -/
theorem State.dropFetch_present {s : State} (h : s.plat.atcPresent = true) : s.dropFetch.plat.atcPresent = true := by
  obtain ⟨-, -, -, -, -, plat, -⟩ := s.dropFetch_keeps
  rw [plat]
  exact h

/-! ### Plain registers -/

/-- The low bits of a word, by a mask. -/
theorem and_lowMask (w : Word) {i : Nat} (h : i ≤ 32) : w &&& BitVec.ofNat 32 (2 ^ i - 1) = (w.extractLsb' 0 i).setWidth 32 := by
  apply BitVec.eq_of_toNat_eq
  have small : 2 ^ i ≤ 2 ^ 32 := Nat.pow_le_pow_right (by decide) h
  have positive : 0 < 2 ^ i := Nat.two_pow_pos i
  rw [BitVec.toNat_and, BitVec.toNat_ofNat, Nat.mod_eq_of_lt (by omega), Nat.and_two_pow_sub_one_eq_mod,
    BitVec.toNat_setWidth_of_le h, BitVec.extractLsb'_toNat, Nat.shiftRight_zero]

/-- The high bits of a word, by a mask. -/
theorem and_pageMask (w : Word) : w &&& 0xFFFFFC00 = w.extractLsb' 10 22 ++ 0#10 := by
  have parts : w = w.extractLsb' 10 22 ++ w.extractLsb' 0 10 := by
    apply BitVec.eq_of_toNat_eq
    have := w.isLt
    rw [toNat_join, toNat_part, toNat_part]
    omega
  exact (congrArg (· &&& 0xFFFFFC00#32) parts).trans (append_and_masks _ _).2

/-- A register of the ATC that is plain storage: what a write makes of the ATC, what a read takes of it. -/
structure PlainEru (n : BitVec 5) (store : Atc → Word → Atc) (load : Atc → Word) : Prop where
  write : ∀ (s : State) (d : Word), s.plat.atcPresent = true →
    s.eruWrite (1#2 ++ n) d = .ok { s.atcReceived with atc := store s.atcReceived.atc d }
  read : ∀ s : State, s.plat.atcPresent = true → s.eruRead (1#2 ++ n) = .ok (load s.atc, s.atcReceived)
  value : ∀ a d, load (store a d) = d &&& eruMask n
  entries : ∀ a d, (store a d).am = a.am
  apart : ∀ a i r e m, load { a with ita := i, reqs := r, memErr := e, mdee := m } = load a

/-- A write message to an ATC that is there, and a read message. -/
theorem State.eru_of_present {s : State} (h : s.plat.atcPresent = true) {α : Type} (x y : α) :
    (if !s.plat.atcPresent then x else y) = y := if_neg (by rw [h]; decide)

/-- The plain registers (11 R122 to R137). -/
theorem plainEru_of {n : BitVec 5} (plain : isPlainEru n = true) : ∃ store load, PlainEru n store load := by
  have low : ∀ d : Word, d &&& 0xFFFFFFFF = d := fun d => BitVec.and_allOnes (x := d)
  unfold isPlainEru at plain
  simp only [Bool.or_eq_true, beq_iff_eq] at plain
  rcases plain with (((((rfl | rfl) | rfl) | rfl) | rfl) | rfl) | rfl
  · exact ⟨fun a d => { a with ca2 := rightHalf d }, fun a => a.ca2.setWidth 32, fun s d h => s.eru_of_present h _ _,
      fun s h => s.eru_of_present h _ _, fun _ d => (and_lowMask d (i := 16) (by decide)).symm, fun _ _ => rfl, fun _ _ _ _ _ => rfl⟩
  · exact ⟨fun a d => { a with imr := rightHalf d }, fun a => a.imr.setWidth 32, fun s d h => s.eru_of_present h _ _,
      fun s h => s.eru_of_present h _ _, fun _ d => (and_lowMask d (i := 16) (by decide)).symm, fun _ _ => rfl, fun _ _ _ _ _ => rfl⟩
  · exact ⟨fun a d => { a with itmr := d, todHold := true }, fun a => a.itmr, fun s d h => s.eru_of_present h _ _,
      fun s h => s.eru_of_present h _ _, fun _ d => (low d).symm, fun _ _ => rfl, fun _ _ _ _ _ => rfl⟩
  · exact ⟨fun a d => { a with tod := d, todHold := true }, fun a => a.tod, fun s d h => s.eru_of_present h _ _,
      fun s h => s.eru_of_present h _ _, fun _ d => (low d).symm, fun _ _ => rfl, fun _ _ _ _ _ => rfl⟩
  · exact ⟨fun a d => { a with amr := d }, fun a => a.amr, fun s d h => s.eru_of_present h _ _,
      fun s h => s.eru_of_present h _ _, fun _ d => (low d).symm, fun _ _ => rfl, fun _ _ _ _ _ => rfl⟩
  · exact ⟨fun a d => { a with psr := d.extractLsb' 0 3 }, fun a => a.psr.setWidth 32, fun s d h => s.eru_of_present h _ _,
      fun s h => s.eru_of_present h _ _, fun _ d => (and_lowMask d (i := 3) (by decide)).symm, fun _ _ => rfl, fun _ _ _ _ _ => rfl⟩
  · exact ⟨fun a d => { a with pmr := d.extractLsb' 10 22 }, fun a => a.pmr ++ 0#10, fun s d h => s.eru_of_present h _ _,
      fun s h => s.eru_of_present h _ _, fun _ d => (and_pageMask d).symm, fun _ _ => rfl, fun _ _ _ _ _ => rfl⟩

/-- A plain register's number is no scratch pad reference. -/
theorem high_of_plain {n : BitVec 5} (plain : isPlainEru n = true) : 7 ≤ n.toNat := by
  unfold isPlainEru at plain
  simp only [Bool.or_eq_true, beq_iff_eq] at plain
  rcases plain with (((((rfl | rfl) | rfl) | rfl) | rfl) | rfl) | rfl <;> decide

/-- TOE of a plain register and TIE after it. -/
theorem plainEru_reads_back {n : BitVec 5} (plain : isPlainEru n = true) (k m : RsuNum) (s : State) (present : s.plat.atcPresent = true) :
    ∃ t, exec (.toe n k) s = .next t ∧ (∀ r, t.rsu r = s.rsu r) ∧ t.cpc.ind = s.cpc.ind ∧ t.mem = s.mem ∧ t.atc.am = s.atc.am ∧
      t.pipe = s.pipe ∧
      ∃ u, exec (.tie n m) t = .next u ∧ u.rsu m = s.rsu k &&& eruMask n ∧ KeepsRsu t u [m] ∧ u.cpc.ind = s.cpc.ind ∧
        u.mem = s.mem ∧ u.atc.am = s.atc.am ∧ u.pipe = s.pipe := by
  obtain ⟨store, load, register⟩ := plainEru_of plain
  have high := high_of_plain plain
  have write := register.write s.dropFetch (s.rsu k) (State.dropFetch_present present)
  obtain ⟨run, rsu, ind, mem, pipe⟩ := exec_toe_of high k write
  obtain ⟨dropAm, -⟩ := s.dropFetch_keeps
  have stored : ∀ t : State, t = { s.dropFetch.atcReceived with atc := store s.dropFetch.atcReceived.atc (s.rsu k) } →
      t.atc.am = s.atc.am ∧ load t.atc = s.rsu k &&& eruMask n ∧ t.plat.atcPresent = true := by
    rintro t rfl
    exact ⟨(register.entries _ _).trans dropAm, register.value _ _, State.dropFetch_present present⟩
  obtain ⟨am, value, there⟩ := stored _ rfl
  generalize ({ s.dropFetch.atcReceived with atc := store s.dropFetch.atcReceived.atc (s.rsu k) } : State) = t at *
  obtain ⟨tRun, word, others, tInd, tMem, tPipe⟩ :=
    exec_tie_of high m (register.read t.dropFetch (State.dropFetch_present there))
  obtain ⟨tAm, -⟩ := t.dropFetch_keeps
  obtain ⟨tAtc, -⟩ := t.dropFetch_atc
  refine ⟨t, run, rsu, ind, mem, am, pipe, _, tRun, ?_, others, tInd.trans ind, tMem.trans mem, tAm.trans am, tPipe.trans pipe⟩
  rw [word, ← value, tAtc]
  exact register.apart _ _ _ _ _

/-! ### The Syndrome Register and the addresses of the ATC -/

/-- The Syndrome Register as a word (11 R131). -/
theorem syndromeWord_eq (syn : BitVec 7) (e : Bool) :
    (0#1 ++ syn ++ 0#7 ++ bit1 e ++ 0#16 : Word) = BitVec.ofNat 32 (syn.toNat * 2 ^ 24 + e.toNat * 2 ^ 16) := by
  have small := syn.isLt
  have bit : (bit1 e).toNat = e.toNat := BitVec.toNat_ofBool e
  have one := Bool.toNat_lt e
  have value : (BitVec.ofNat 32 (syn.toNat * 2 ^ 24 + e.toNat * 2 ^ 16)).toNat = syn.toNat * 2 ^ 24 + e.toNat * 2 ^ 16 := by
    rw [BitVec.toNat_ofNat]
    omega
  apply BitVec.eq_of_toNat_eq
  rw [value, toNat_join, toNat_join, toNat_join, toNat_join, bit]
  show (((0 * 2 ^ 7 + syn.toNat) * 2 ^ 7 + 0) * 2 ^ 1 + e.toNat) * 2 ^ 16 + 0 = _
  omega

/-- A read that leaves the associative memory, with the lock it leaves. -/
theorem reads_of {n : BitVec 5} (h : 7 ≤ n.toNat) (m : RsuNum) {s t : State} {w w' : Word} {lock : Bool}
    (read : s.dropFetch.eruRead (1#2 ++ n) = .ok (w, t)) (value : w = w') (am : t.atc.am = s.atc.am) (locked : t.atc.synLock = lock) :
    ∃ u, exec (.tie n m) s = .next u ∧ u.rsu m = w' ∧ KeepsRsu s u [m] ∧ u.atc.synLock = lock ∧ u.cpc.ind = s.cpc.ind ∧
      u.mem = s.mem ∧ u.atc.am = s.atc.am ∧ u.pipe = s.pipe := by
  obtain ⟨run, word, others, ind, mem, pipe⟩ := exec_tie_of h m read
  exact ⟨_, run, word.trans value, others, locked, ind, mem, am, pipe⟩

/-! ### Messages of other devices -/

/-- Without a fetched word none goes by. -/
theorem State.dropFetch_of_none {s : State} (h : s.cpc.fetch = none) : s.dropFetch = s := by
  have same : { s with cpc := { s.cpc with fetch := none } } = s := by rw [← h]
  unfold State.dropFetch
  rw [h]
  exact same

/-- The register numbers below 64 are no ports. -/
theorem eru_not_port (n : BitVec 5) : bitAt (1#2 ++ n : BitVec 7) 7 = false := by
  unfold bitAt
  rw [BitVec.getLsbD_append]
  rfl

/-- A port number with its 64. -/
theorem port_number (p : BitVec 6) : bitAt (1#1 ++ p : BitVec 7) 7 = true ∧ (1#1 ++ p : BitVec 7).extractLsb' 0 6 = p := by
  constructor
  · unfold bitAt
    rw [BitVec.getLsbD_append]
    rfl
  · apply BitVec.eq_of_getLsbD_eq
    intro i hi
    rw [BitVec.getLsbD_extractLsb', decide_eq_true hi, Bool.true_and, Nat.zero_add, BitVec.getLsbD_append, if_pos hi]

/-- A read message of another device does what TIE does, the CPC apart. -/
theorem deviceRead_of_tie {n : BitVec 5} (h : 7 ≤ n.toNat) (k : RsuNum) {s : State} (quiet : s.cpc.fetch = none) :
    (∀ t, exec (.tie n k) s = .next t → s.deviceMessage (.eruRead (1#2 ++ n)) = .ok { t with cpc := s.cpc }) ∧
    (∀ r, exec (.tie n k) s = .refused r → s.deviceMessage (.eruRead (1#2 ++ n)) = .error r) := by
  have run := exec_tie h k s
  rw [State.dropFetch_of_none quiet] at run
  have message : s.deviceMessage (.eruRead (1#2 ++ n)) =
      match s.eruRead (1#2 ++ n) with
      | .error r => .error r
      | .ok (_, t) => .ok t := if_neg (by rw [eru_not_port]; decide)
  cases q : s.eruRead (1#2 ++ n) with
  | error r =>
    have refused : exec (.tie n k) s = .refused r := by
      rw [run, q]
      rfl
    rw [message, q, refused]
    exact ⟨fun t e => absurd e nofun, fun r' e => congrArg Except.error (Host.Outcome.refused.inj e)⟩
  | ok x =>
    obtain ⟨w, u⟩ := x
    obtain ⟨cpc, -⟩ := State.eruRead_onlyAtc _ _ _ _ q
    have answered : exec (.tie n k) s = .next (u.setRsu k w) := by
      rw [run, q]
      rfl
    rw [message, q, answered]
    refine ⟨fun t e => ?_, fun r e => absurd e nofun⟩
    rw [← Host.Outcome.next.inj e, ← cpc]
    rfl

/-- A write message of another device does what TOE does, the request of the bus apart (log 63). -/
theorem deviceWrite_of_toe {n : BitVec 5} (h : 7 ≤ n.toNat) (k : RsuNum) {s : State} (quiet : s.cpc.fetch = none) (bin : n ≠ 14#5) :
    (∀ t, exec (.toe n k) s = .next t → s.deviceMessage (.eruWrite (1#2 ++ n) (s.rsu k)) =
      .ok { t with atc := { t.atc with reqsOnce := s.atc.reqsOnce } }) ∧
    (∀ r, exec (.toe n k) s = .refused r → s.deviceMessage (.eruWrite (1#2 ++ n) (s.rsu k)) = .error r) := by
  have run := exec_toe h k s
  rw [State.dropFetch_of_none quiet] at run
  have other : (1#2 ++ n : BitVec 7) ≠ 46#7 := fun e => bin (BitVec.eq_of_toNat_eq (by
    have := congrArg BitVec.toNat e
    rw [toNat_eru] at this
    exact Nat.add_left_cancel (n := 32) this))
  have message : s.deviceMessage (.eruWrite (1#2 ++ n) (s.rsu k)) =
      match s.eruWrite (1#2 ++ n) (s.rsu k) with
      | .error r => .error r
      | .ok t => .ok (t.withReqsOnce s.atc.reqsOnce) :=
    (if_neg (by rw [eru_not_port]; decide)).trans (if_neg other)
  cases q : s.eruWrite (1#2 ++ n) (s.rsu k) with
  | error r =>
    have refused : exec (.toe n k) s = .refused r := by
      rw [run, q]
      rfl
    rw [message, q, refused]
    exact ⟨fun t e => absurd e nofun, fun r' e => congrArg Except.error (Host.Outcome.refused.inj e)⟩
  | ok u =>
    have taken : exec (.toe n k) s = .next u := by
      rw [run, q]
      rfl
    rw [message, q, taken]
    refine ⟨fun t e => ?_, fun r e => absurd e nofun⟩
    rw [← Host.Outcome.next.inj e]
    rfl

/-- A write message to a port changes at most the breakpoint hardware (60 R730). -/
theorem State.portWrite_spec (s : State) (p : BitVec 6) (d : Word) :
    { s.portWrite p d with bkpt := s.bkpt, fresh := s.fresh, atc := s.atc } = s ∧
    (s.portWrite p d).atc = { s.atc with rrResetting := false } ∧
    (s.plat.bkptHw = false ∨ s.plat.mcrPort ≠ p → (s.portWrite p d).bkpt = s.bkpt) := by
  unfold State.portWrite
  split
  · next h =>
    obtain ⟨hardware, port⟩ := Bool.and_eq_true_iff.mp h
    refine ⟨rfl, rfl, fun other => ?_⟩
    rcases other with off | other
    · exact absurd (hardware.symm.trans off) (by decide)
    · exact absurd (beq_iff_eq.mp port) other
  · exact ⟨rfl, rfl, fun _ => rfl⟩

/-- A read message of a port changes nothing (20 R191; 60 R730). -/
theorem State.portRead_spec (s : State) (p : BitVec 6) :
    { (s.portRead p).2 with fresh := s.fresh, atc := s.atc } = s ∧ (s.portRead p).2.atc = { s.atc with rrResetting := false } ∧
      (s.portRead p).2.bkpt = s.bkpt := by
  unfold State.portRead
  dsimp only
  split <;> exact ⟨rfl, rfl, rfl⟩

/-- Settles O13: every register by its equation, the messages of other devices by those of the CPC. -/
theorem externalRegistersReadBack : Obligations.ExternalRegistersReadBack := by
  refine ⟨fun n k m s plain present => plainEru_reads_back plain k m s present, fun k m s present => ?_, fun n k s high quiet => ?_,
    fun p d s m hm => ?_⟩
  · intro reads
    have there := State.dropFetch_present present
    obtain ⟨am, ⟨-, -, -, -, -, -, -, -, synLock⟩, -⟩ := s.dropFetch_keeps
    obtain ⟨atc, -⟩ := s.dropFetch_atc
    have field := fun {α : Type} (f : Atc → α) => congrArg f atc
    have syn : s.dropFetch.atc.syn = s.atc.syn := field Atc.syn
    have synEr : s.dropFetch.atc.synEr = s.atc.synEr := field Atc.synEr
    have psr : s.dropFetch.pageSizeOk = s.pageSizeOk := by
      unfold State.pageSizeOk
      rw [show s.dropFetch.atc.psr = s.atc.psr from field Atc.psr]
    refine ⟨?_, ?_, ?_, ?_, fun size => ?_, fun size => ?_⟩
    · obtain ⟨run, rsu, ind, mem, pipe⟩ := exec_toe_of (n := 17#5) (by decide) k (State.eru_of_present there _ _)
      refine ⟨_, run, fun n hn => ?_, rfl, synEr, rsu, ind, mem, am, pipe⟩
      show ((s.rsu k).extractLsb' 24 7).getLsbD n = _
      rw [BitVec.getLsbD_extractLsb', decide_eq_true hn, Bool.true_and, Nat.add_comm]
    · refine reads_of (n := 17#5) (by decide) m (State.eru_of_present there _ _) ?_ am rfl
      rw [syndromeWord_eq, syn, synEr]
    · exact reads_of (n := 18#5) (by decide) m (State.eru_of_present there _ _) (field Atc.ddr) am synLock
    · exact reads_of (n := 23#5) (by decide) m (State.eru_of_present there _ _) (field Atc.rar) am synLock
    · exact reads_of (n := 22#5) (by decide) m ((State.eru_of_present there _ _).trans (if_pos (psr.trans size))) (field Atc.varb) am
        synLock
    · have read : s.dropFetch.eruRead 54#7 = .error .pageSizeInvalid :=
        (State.eru_of_present there _ _).trans (if_neg (by rw [psr, size]; decide))
      rw [exec_tie (by decide)]
      exact congrArg (receiveRegister · m) read
  · obtain ⟨read, readRefused⟩ := deviceRead_of_tie high k quiet
    exact ⟨read, readRefused, fun bin => deviceWrite_of_toe high k quiet bin⟩
  · obtain ⟨port, number⟩ := port_number p
    simp only [List.mem_cons, List.not_mem_nil, or_false] at hm
    rcases hm with rfl | rfl
    · obtain ⟨rest, atc, bkpt⟩ := s.portWrite_spec p d
      refine ⟨s.portWrite p d, ?_, rest, atc, bkpt⟩
      show (if bitAt (1#1 ++ p : BitVec 7) 7 = true then _ else _) = _
      rw [if_pos port, number]
    · obtain ⟨rest, atc, bkpt⟩ := s.portRead_spec p
      refine ⟨(s.portRead p).2, ?_, ?_, atc, fun _ => bkpt⟩
      · show (if bitAt (1#1 ++ p : BitVec 7) 7 = true then _ else _) = _
        rw [if_pos port, number]
      · rw [bkpt.symm]
        exact (congrArg (fun x : State => { x with bkpt := (s.portRead p).2.bkpt }) rest).trans (by rw [bkpt])

end Sys2Proof.Machine
end

section
/-! The Interrupt Array and the Bus Input register (11, 22, 60). -/

namespace Sys2Proof.Machine

/-! ### `BIN` loaded -/

/-- `BIN` loaded: its word, and bit 5 posted or waiting for the write of `ITA` that a read announced (11 R130; 60 R705). -/
theorem State.loadBin_spec (s : State) (d : Word) : (s.loadBin d).atc.bin = d ∧ (s.loadBin d).atc.binFull = true ∧
    (bitAt (s.loadBin d).atc.ita 5 = true ↔ bitAt s.atc.ita 5 = true ∨ (bitAt s.atc.imr 5 = false ∧ s.atc.itaRead = false)) ∧
    ((s.loadBin d).atc.binPending = true ↔ s.atc.binPending = true ∨ (bitAt s.atc.imr 5 = false ∧ s.atc.itaRead = true)) := by
  have mask := s.unmasked_itaBit 5 true (by decide) (by decide)
  unfold State.loadBin
  dsimp only
  have same : State.unmasked { s with atc := { s.atc with bin := d, binFull := true } } (itaBit 5 true) = s.unmasked (itaBit 5 true) :=
    rfl
  rw [same]
  split
  · next none =>
    rw [none, bne_self_eq_false, Bool.true_and, eq_comm, Bool.not_eq_false'] at mask
    have masked : ¬bitAt s.atc.imr 5 = false := by rw [mask]; decide
    exact ⟨rfl, rfl, ⟨.inl, fun h => h.resolve_right fun q => masked q.1⟩, ⟨.inl, fun h => h.resolve_right fun q => masked q.1⟩⟩
  · next some =>
    rw [bne_iff_ne.mpr some, Bool.true_and, eq_comm, Bool.not_eq_true'] at mask
    split
    · next announced =>
      exact ⟨rfl, rfl, ⟨.inl, fun h => h.resolve_right fun q => absurd (announced.symm.trans q.2) (by decide)⟩,
        ⟨fun _ => .inr ⟨mask, announced⟩, fun _ => rfl⟩⟩
    · next quiet =>
      have free : s.atc.itaRead = false := Bool.eq_false_iff.mpr quiet
      refine ⟨rfl, rfl, ⟨fun _ => .inr ⟨mask, free⟩, fun _ => ?_⟩, ⟨.inl, fun h => h.resolve_right fun q => quiet q.2⟩⟩
      rw [State.bitAt_post _ _ _ (by decide) (by decide), bitAt_itaBit _ _ _ (by decide) (by decide) (by decide)]
      show (bitAt s.atc.ita 5 || (true && true) && !bitAt s.atc.imr 5) = true
      rw [mask, Bool.and_self, Bool.not_false, Bool.and_self, Bool.or_true]

/-- What a load of `BIN` reads is untouched by a fetched word going by. -/
theorem State.dropFetch_bin (s : State) : bitAt s.dropFetch.atc.ita 5 = bitAt s.atc.ita 5 ∧ s.dropFetch.atc.imr = s.atc.imr ∧
    s.dropFetch.atc.itaRead = s.atc.itaRead ∧ s.dropFetch.atc.binPending = s.atc.binPending ∧ s.dropFetch.atc.bin = s.atc.bin ∧
    s.dropFetch.atc.binFull = s.atc.binFull := by
  obtain ⟨atc, ita⟩ := s.dropFetch_atc
  have field := fun {α : Type} (f : Atc → α) => congrArg f atc
  exact ⟨ita 5 (by decide) (by decide) (by decide), field Atc.imr, field Atc.itaRead, field Atc.binPending, field Atc.bin,
    field Atc.binFull⟩

/-- A read message of another device to a register of the ATC. -/
theorem State.deviceRead_of {s t : State} {n : BitVec 7} {w : Word} (register : bitAt n 7 = false) (h : s.eruRead n = .ok (w, t)) :
    s.deviceMessage (.eruRead n) = .ok t := by
  show (if bitAt n 7 = true then _ else match s.eruRead n with | .error r => Except.error r | .ok (_, t) => .ok t) = _
  rw [if_neg (by rw [register]; decide), h]

/-- TOE to `BIN`: taken while it is empty, or on machines where a full one takes it too (11 R130; 22 R279; log 21). -/
theorem exec_toe_bin (k : RsuNum) {s : State} (present : s.plat.atcPresent = true) :
    ∃ t, exec (.toe 14 k) s = .next t ∧ (∀ r, t.rsu r = s.rsu r) ∧ t.cpc.ind = s.cpc.ind ∧ t.mem = s.mem ∧
      t = if s.atc.binFull = true ∧ s.plat.binGuardsCpc = true then s.dropFetch.atcReceived
        else s.dropFetch.atcReceived.loadBin (s.rsu k) := by
  have there := State.dropFetch_present present
  obtain ⟨-, -, -, -, -, plat, -⟩ := s.dropFetch_keeps
  obtain ⟨-, -, -, -, -, full⟩ := s.dropFetch_bin
  obtain ⟨run, rsu, ind, mem, -⟩ := exec_toe_of (n := 14#5) (by decide) k (State.eru_of_present there _ _)
  refine ⟨_, run, rsu, ind, mem, ?_⟩
  show (if s.dropFetch.plat.binGuardsCpc = true then
    (if s.dropFetch.atc.binFull = true then s.dropFetch.atcReceived else s.dropFetch.atcReceived.loadBin (s.rsu k))
    else s.dropFetch.atcReceived.loadBin (s.rsu k)) = _
  rw [plat, full]
  cases s.plat.binGuardsCpc <;> cases s.atc.binFull <;> rfl

/-! ### `ITA` written -/

/-- The bits of `ITA` that exist (11 R125). -/
theorem bitAt_itaImplemented {n : Nat} (h1 : 1 ≤ n) (h16 : n ≤ 16) : bitAt itaImplemented n = true ↔ 4 ≤ n ∧ n ≠ 15 := by
  unfold itaImplemented
  interval_cases n <;> decide

/-- A bit of the right half of a word. -/
theorem bitAt_rightHalf (d : Word) {n : Nat} (h1 : 1 ≤ n) (h16 : n ≤ 16) : bitAt (rightHalf d) n = bitAt d n := bitAt_low d h1 h16

/-- A write of `ITA` (11 R126; 60 R705). -/
theorem State.writeIta_spec (s : State) (d : Word) :
    (∀ n, 1 ≤ n → n ≤ 16 → (bitAt (s.writeIta d).atc.ita n = true ↔
      (bitAt d n = true ∧ 4 ≤ n ∧ n ≠ 15) ∨ (n = 5 ∧ s.atc.binPending = true))) ∧
    (s.writeIta d).atc.binPending = false ∧ (s.writeIta d).atc.itaRead = false := by
  refine ⟨fun n h1 h16 => ?_, rfl, rfl⟩
  have written : bitAt (rightHalf d &&& itaImplemented) n = true ↔ bitAt d n = true ∧ 4 ≤ n ∧ n ≠ 15 := by
    rw [bitAt_and, Bool.and_eq_true, bitAt_rightHalf d h1 h16, bitAt_itaImplemented h1 h16]
  show bitAt (if s.atc.binPending = true then putBit (rightHalf d &&& itaImplemented) 5 true else rightHalf d &&& itaImplemented) n =
    true ↔ _
  rw [← written]
  by_cases pending : s.atc.binPending = true
  · rw [if_pos pending, bitAt_putBit _ _ _ _ (by decide) (by decide) h1]
    by_cases five : 5 = n
    · rw [if_pos five]
      exact ⟨fun _ => .inr ⟨five.symm, pending⟩, fun _ => rfl⟩
    · rw [if_neg five]
      exact ⟨.inl, fun h => h.resolve_right fun q => five q.1.symm⟩
  · rw [if_neg pending]
    exact ⟨.inl, fun h => h.resolve_right fun q => pending q.2⟩

/-- A bit 4 that a write of `ITA` clears stays clear to the end of its cycle (60 R704). -/
theorem State.writeIta_clears {s : State} {d : Word} (present : s.plat.atcPresent = true) (was : bitAt s.atc.ita 4 = true)
    (cleared : bitAt d 4 = false) (e : Option Entry) : bitAt ((s.writeIta d).finish e).atc.ita 4 = false := by
  obtain ⟨bits, -, -⟩ := s.writeIta_spec d
  have gone : bitAt (rightHalf d &&& itaImplemented) 4 = false := by
    rw [bitAt_and, bitAt_rightHalf d (by decide) (by decide), cleared, Bool.false_and]
  have four : bitAt (s.writeIta d).atc.ita 4 = false := by
    rw [← Bool.not_eq_true, bits 4 (by decide) (by decide), cleared]
    rintro (⟨h, -⟩ | ⟨h, -⟩) <;> cases h
  obtain ⟨ita, -⟩ := (s.writeIta d).finish_atc e present
  rw [ita 4 (by decide) (by decide), four, s.writeIta_holds d was gone]
  simp

/-- Settles O14: `BIN` by what a load does, `ITA` by what a write does. -/
theorem interruptArrayAccess : Obligations.InterruptArrayAccess := by
  intro k m s present loaded
  have there := State.dropFetch_present present
  obtain ⟨ita5, imr, itaRead, binPending, bin, -⟩ := s.dropFetch_bin
  refine ⟨fun takes => ?_, fun full guards => ?_, ?_, fun d message hm => ⟨fun empty => ?_, fun full => ?_⟩,
    State.deviceRead_of (by decide) (s.eru_of_present present _ _), State.deviceRead_of (by decide) (s.eru_of_present present _ _), ?_, ?_⟩
  · obtain ⟨t, run, rsu, ind, mem, rfl⟩ := exec_toe_bin k present
    have taken : ¬(s.atc.binFull = true ∧ s.plat.binGuardsCpc = true) := fun ⟨full, guards⟩ => by
      rcases takes with h | h
      · rw [full] at h; cases h
      · rw [guards] at h; cases h
    rw [if_neg taken] at *
    obtain ⟨word, isFull, posted, waits⟩ := s.dropFetch.atcReceived.loadBin_spec (s.rsu k)
    simp only [State.atcReceived_atc, ita5, imr, itaRead, binPending] at posted waits
    exact ⟨_, run, word, isFull, posted, waits, rsu, ind, mem⟩
  · obtain ⟨t, run, rsu, ind, mem, rfl⟩ := exec_toe_bin k present
    rw [if_pos ⟨full, guards⟩] at *
    obtain ⟨-, -, -, -, -, isFull⟩ := s.dropFetch_bin
    exact ⟨_, run, bin, isFull.trans full, binPending, ita5, rsu, ind, mem⟩
  · obtain ⟨run, word, others, ind, mem, -⟩ := exec_tie_of (n := 14#5) (by decide) m (State.eru_of_present there _ _)
    exact ⟨_, run, word.trans bin, rfl, bin, others, ind, mem⟩
  · have run : s.deviceMessage message = .ok (s.atcReceived.loadBin d) := by
      have received : (if s.plat.atcPresent = true then s.atcReceived.writeBin d else s) = s.atcReceived.loadBin d := by
        rw [if_pos present]
        exact if_neg (by rw [State.atcReceived_atc, empty]; decide)
      simp only [List.mem_cons, List.not_mem_nil, or_false] at hm
      rcases hm with rfl | rfl <;> exact congrArg Except.ok received
    obtain ⟨word, isFull, posted, waits⟩ := s.atcReceived.loadBin_spec d
    obtain ⟨cpc, -, mem, -⟩ := s.atcReceived.loadBin_onlyAtc d
    exact ⟨_, run, word, isFull, posted, waits, State.rsu_of_cpc (congrArg Cpc.rsu cpc), congrArg Cpc.ind cpc, mem⟩
  · have received : (if s.plat.atcPresent = true then s.atcReceived.writeBin d else s) = s.atcReceived := by
      rw [if_pos present]
      exact if_pos full
    simp only [List.mem_cons, List.not_mem_nil, or_false] at hm
    rcases hm with rfl | rfl <;> exact congrArg Except.ok received
  · obtain ⟨run, word, others, ind, mem, -⟩ := exec_tie_of (n := 9#5) (by decide) m (State.eru_of_present there _ _)
    exact ⟨_, run, by rw [word, toNat_widen _ (by decide)], rfl, others, ind, mem⟩
  · obtain ⟨run, rsu, ind, mem, -⟩ := exec_toe_of (n := 9#5) (by decide) k (State.eru_of_present there _ _)
    obtain ⟨bits, pending, read⟩ := s.dropFetch.atcReceived.writeIta_spec (s.rsu k)
    obtain ⟨-, ita⟩ := s.dropFetch_atc
    simp only [State.atcReceived_atc, binPending] at bits
    refine ⟨_, run, bits, fun was cleared e => ?_, pending, read, rsu, ind, mem⟩
    exact State.writeIta_clears (s := s.dropFetch.atcReceived) there ((ita 4 (by decide) (by decide) (by decide)).trans was) cleared e

end Sys2Proof.Machine
end

section
/-! The commands of the associative memory (11, 21). -/

namespace Sys2Proof.Machine

/-! ### Entries and reference bits -/

/-- An entry is a place in the associative memory. -/
theorem State.entry_eq (s : State) {i : Nat} (h : i < 16) : s.entry i = s.atc.am[i] := by
  unfold State.entry
  rw [List.getD_eq_getElem?_getD, List.getElem?_eq_getElem (by simpa using h)]
  simp

/-- An entry where every one was changed. -/
theorem State.entry_of_mapAm {s t : State} {f : AmEntry → AmEntry} (am : t.atc.am = mapAm f s.atc.am) {i : Nat} (h : i < 16) :
    t.entry i = f (s.entry i) := by
  have list : (mapAm f s.atc.am).toList = s.atc.am.toList.map f := rfl
  unfold State.entry
  rw [am, list, List.getD_eq_getElem?_getD, List.getD_eq_getElem?_getD, List.getElem?_map]
  rw [List.getElem?_eq_getElem (by simpa using h)]
  rfl

/-- The reference bits, in order. -/
def references (v : Vector AmEntry 16) : List Bool := v.toList.map AmEntry.rr

/-- The references are all that the search for a free entry and its automatic reset read. -/
theorem allReferenced_eq (v : Vector AmEntry 16) : allReferenced v = (references v).all id := by
  unfold allReferenced references
  rw [List.all_map]
  rfl

/-- The first unreferenced entry, from the reference bits. -/
theorem State.lru_eq (s : State) : s.lru = (references s.atc.am).findIdx (!·) := by
  unfold State.lru references
  rw [List.findIdx_map]
  rfl

/-- The reference bits after an entry was replaced. -/
theorem references_set (v : Vector AmEntry 16) (i : Nat) (e : AmEntry) :
    references (v.setIfInBounds i e) = (references v).set i e.rr := by
  unfold references
  rw [Vector.toList_setIfInBounds, List.map_set]

/-- An entry replaced by one with its own reference bit. -/
theorem references_set_same (v : Vector AmEntry 16) {i : Nat} (h : i < 16) {e : AmEntry} (rr : e.rr = v[i].rr) :
    references (v.setIfInBounds i e) = references v := by
  have len : i < (references v).length := by simpa [references] using h
  rw [references_set, rr]
  have here : (references v)[i] = v[i].rr := by simp [references]
  rw [← here, List.set_getElem_self]

/-- The sixteenth reference bit is seen in the reference bits. -/
theorem State.lastReference_eq (s : State) (i : Nat) : s.lastReference i = ((references s.atc.am).set i true).all id := by
  unfold State.lastReference
  rw [allReferenced_eq, references_set]

/-- The first unreferenced entry and the sixteenth reference bit depend on the reference bits alone. -/
theorem same_of_references {s t : State} (h : references t.atc.am = references s.atc.am) :
    t.lru = s.lru ∧ ∀ i, t.lastReference i = s.lastReference i :=
  ⟨by rw [State.lru_eq, h, ← State.lru_eq], fun i => by rw [State.lastReference_eq, h, ← State.lastReference_eq]⟩

/-- An entry referenced while another stays unreferenced: its bit is set, nothing else (21 R232). -/
theorem State.entry_setReferenced {s : State} {i : Nat} (h : i < 16) (more : s.lastReference i = false) (m : Nat) :
    (s.setReferenced i).entry m = if m = i then { s.entry i with rr := true } else s.entry m := by
  rw [← s.entry_setEntry i m _ h]
  refine State.entry_of_am m ?_
  unfold State.lastReference at more
  unfold State.setReferenced State.setEntry
  dsimp only
  rw [if_neg (by rw [more]; decide)]

/-- What a command on the reference bits leaves in the associative memory. -/
theorem State.entry_referenceByCommand (s : State) (i m : Nat) : (s.referenceByCommand i).entry m = (s.setReferenced i).entry m := rfl

/-! ### The commands -/

/-- A translation without a fetched word reads the same controls. -/
theorem State.eff_of {s t : State} (ca2 : t.atc.ca2 = s.atc.ca2) (a : Word) : t.eff a = s.eff a := by
  unfold State.eff State.ca2At
  rw [ca2]

/-- The page size after a message that keeps the controls. -/
theorem KeepsAtcControls.pageSizeOk {s t : State} (h : KeepsAtcControls s t) : t.pageSizeOk = s.pageSizeOk := by
  obtain ⟨-, -, -, -, -, -, psr, -⟩ := h
  unfold State.pageSizeOk
  rw [psr]

/-- WVP: the page number into the first unreferenced entry, invalid for now (21 R247). -/
theorem State.writeVirtualPage_spec {s : State} (size : s.pageSizeOk = true) (free : s.lru < 16) (d : Word) :
    ∃ t, s.writeVirtualPage d = .ok t ∧ t.lru = s.lru ∧ t.lastReference s.lru = s.lastReference s.lru ∧ t.pageSizeOk = true ∧
      t.atc.rrResetting = false ∧ t.plat = s.plat ∧
      ∀ m, t.entry m = if m = s.lru then { s.entry s.lru with vpn := (s.eff d).extractLsb' 10 22, ir := true } else s.entry m := by
  have run : s.writeVirtualPage d = .ok ((s.atcReceived.showDescriptor s.lru).setEntry s.lru
      { (s.atcReceived.showDescriptor s.lru).entry s.lru with
        vpn := ((s.atcReceived.showDescriptor s.lru).eff d).extractLsb' 10 22
        ir := true }) := by
    unfold State.writeVirtualPage
    exact if_neg (by rw [size]; decide)
  have shown : ∀ m, (s.atcReceived.showDescriptor s.lru).entry m = s.entry m := fun m => rfl
  have same : references (s.atc.am.setIfInBounds s.lru { s.entry s.lru with vpn := (s.eff d).extractLsb' 10 22, ir := true }) =
      references s.atc.am := references_set_same _ free (by rw [← s.entry_eq free])
  obtain ⟨lru, last⟩ := same_of_references (s := s) (t := (s.atcReceived.showDescriptor s.lru).setEntry s.lru
    { (s.atcReceived.showDescriptor s.lru).entry s.lru with
      vpn := ((s.atcReceived.showDescriptor s.lru).eff d).extractLsb' 10 22
      ir := true }) same
  refine ⟨_, run, lru, last _, size, rfl, rfl, fun m => ?_⟩
  rw [State.entry_setEntry _ _ _ _ free]
  rfl

/-- WSPF: the descriptor into the first unreferenced entry, valid and referenced (21 R249). -/
theorem State.writePageFrame_spec {s : State} (ready : s.atc.rrResetting = false) (size : s.pageSizeOk = true) (free : s.lru < 16)
    (more : s.lastReference s.lru = false) (d : Word) {t : State} (run : s.writePageFrame d = .ok t) (m : Nat) :
    t.entry m = if m = s.lru then { s.plat.pdLayout.load d (s.entry s.lru) with ir := false, rr := true } else s.entry m := by
  unfold State.writePageFrame at run
  rw [if_neg (by rw [ready]; decide), if_neg (by rw [size]; decide)] at run
  cases run
  have loaded : ({ s.plat.pdLayout.load d (s.entry s.lru) with ir := false } : AmEntry).rr = s.atc.am[s.lru].rr := by
    rw [← s.entry_eq free]
    rfl
  have last : (s.setEntry s.lru { s.plat.pdLayout.load d (s.entry s.lru) with ir := false }).lastReference s.lru = false := by
    obtain ⟨-, same⟩ := same_of_references (s := s)
      (t := s.setEntry s.lru { s.plat.pdLayout.load d (s.entry s.lru) with ir := false }) (references_set_same _ free loaded)
    rw [same, more]
  rw [State.entry_referenceByCommand, State.entry_setReferenced free last]
  split
  · rw [State.entry_setEntry _ _ _ _ free, if_pos rfl]
  · next other => rw [State.entry_setEntry _ _ _ _ free, if_neg other]

/-- WSPF is taken where the hazard is over and the page size is one. -/
theorem State.writePageFrame_ok {s : State} (ready : s.atc.rrResetting = false) (size : s.pageSizeOk = true) (d : Word) :
    ∃ t, s.writePageFrame d = .ok t := by
  unfold State.writePageFrame
  rw [if_neg (by rw [ready]; decide), if_neg (by rw [size]; decide)]
  exact ⟨_, rfl⟩

/-- WVP and WSPF after it fill the first unreferenced entry. -/
theorem fills_entry (j k : RsuNum) {s : State} (present : s.plat.atcPresent = true) (size : s.pageSizeOk = true) (free : s.lru < 16) :
    ∃ t, exec (.toe 18 j) s = .next t ∧ ∃ u, exec (.toe 19 k) t = .next u ∧
      (s.lastReference s.lru = false → ∀ m, u.entry m = if m = s.lru then
        { s.plat.pdLayout.load (s.rsu k) (s.entry s.lru) with
          vpn := (s.eff (s.rsu j)).extractLsb' 10 22
          rr := true
          ir := false } else s.entry m) ∧ (∀ r, u.rsu r = s.rsu r) ∧ u.mem = s.mem := by
  have there := State.dropFetch_present present
  obtain ⟨am, controls, -, -, -, plat, -⟩ := s.dropFetch_keeps
  obtain ⟨ca2, -⟩ := id controls
  obtain ⟨lru, last⟩ := same_of_references (s := s) (t := s.dropFetch) (by rw [am])
  obtain ⟨t, run, tLru, tLast, tSize, ready, tPlat, entries⟩ :=
    State.writeVirtualPage_spec (s := s.dropFetch) (controls.pageSizeOk.trans size) (lru ▸ free) (s.rsu j)
  rw [lru] at tLru tLast entries
  obtain ⟨runT, rsu, -, mem, -⟩ := exec_toe_of (n := 18#5) (by decide) j ((State.eru_of_present there _ _).trans run)
  have tThere : t.plat.atcPresent = true := by rw [tPlat]; exact there
  obtain ⟨tAm, tControls, -, -, -, tDropPlat, -, -, -, -, tReady⟩ := t.dropFetch_keeps
  obtain ⟨lruT', lastT'⟩ := same_of_references (s := t) (t := t.dropFetch) (by rw [tAm])
  have lruT : t.dropFetch.lru = s.lru := lruT'.trans tLru
  have readyT : t.dropFetch.atc.rrResetting = false := tReady.trans ready
  have sizeT : t.dropFetch.pageSizeOk = true := tControls.pageSizeOk.trans tSize
  obtain ⟨u, runW⟩ := State.writePageFrame_ok readyT sizeT (t.rsu k)
  obtain ⟨runU, rsuU, -, memU, -⟩ :=
    exec_toe_of (n := 19#5) (by decide) k ((State.eru_of_present (State.dropFetch_present tThere) _ _).trans runW)
  refine ⟨t, runT, u, runU, fun more m => ?_, fun r => (rsuU r).trans (rsu r), memU.trans mem⟩
  have lastT : t.dropFetch.lastReference t.dropFetch.lru = false := by
    rw [lruT, lastT', tLast, last, more]
  have filled := State.writePageFrame_spec readyT sizeT (by rw [lruT]; exact free) lastT (t.rsu k) runW m
  have entryT : ∀ m, t.dropFetch.entry m = t.entry m := fun m => State.entry_of_am m tAm
  have entryS : ∀ m, s.dropFetch.entry m = s.entry m := fun m => State.entry_of_am m am
  rw [lruT, entryT, entryT, entries, entries, if_pos rfl, entryS, entryS, tDropPlat, tPlat, plat, rsu, State.eff_of ca2] at filled
  rw [filled]
  split
  · rfl
  · rfl

/-- The descriptor fields of a word in the default layout (11 R139). -/
theorem PdLayout.load_default (d : Word) (e : AmEntry) : (PdLayout.default.load d e).pcp = d.extractLsb' 28 4 ∧
    (PdLayout.default.load d e).pcn = d.extractLsb' 6 4 ∧ (PdLayout.default.load d e).cp = bitAt d 1 := by
  have set : ∀ lo, lo + 4 ≤ 32 → getSet d (lo + 4) (lo + 3) (lo + 2) (lo + 1) = d.extractLsb' lo 4 := fun lo _ => by
    apply BitVec.eq_of_getLsbD_eq
    intro i hi
    unfold getSet bit1 bitAt
    rw [BitVec.getLsbD_append, BitVec.getLsbD_append, BitVec.getLsbD_append, BitVec.getLsbD_extractLsb', decide_eq_true hi, Bool.true_and]
    interval_cases i <;> simp
  exact ⟨set 28 (by decide), set 6 (by decide), rfl⟩

/-- A read of register 48 is ESPF. -/
theorem State.eruRead_espf {s : State} (present : s.plat.atcPresent = true) :
    (∀ r, s.espf = .error r → s.eruRead 48#7 = .error r) ∧ ∀ t, s.espf = .ok t → s.eruRead 48#7 = .ok t.readNothing := by
  have command : s.eruRead 48#7 = match s.espf with
      | .error x => .error x
      | .ok t => .ok t.readNothing := State.eru_of_present present _ _
  constructor
  · intro r h
    rw [command, h]
  · intro t h
    rw [command, h]

/-- ESPF: the descriptor of the first unreferenced entry shown, and the entry referenced (21 R246). -/
theorem exec_espf (m : RsuNum) {s : State} (present : s.plat.atcPresent = true) :
    (s.atc.rrResetting = true → exec (.tie 16 m) s = .refused .referencedHazard) ∧
    (s.atc.rrResetting = false → ∃ t, exec (.tie 16 m) s = .next t ∧
      t.atc.rar = s.plat.pdLayout.word s.atc.rar (s.entry s.lru) ∧ t.atc.ddr = t.atc.rar ∧
      t.atc.am = (s.setReferenced s.lru).atc.am ∧ t.atc.rrResetting = s.lastReference s.lru ∧
      KeepsRsu s t [m] ∧ t.cpc.ind = s.cpc.ind ∧ t.mem = s.mem) := by
  have there := State.dropFetch_present present
  obtain ⟨am, -, -, -, -, plat, -, -, -, -, hazard⟩ := s.dropFetch_keeps
  obtain ⟨atc, -⟩ := s.dropFetch_atc
  have rar : s.dropFetch.atc.rar = s.atc.rar := (congrArg Atc.rar atc :)
  obtain ⟨lru, last⟩ := same_of_references (s := s) (t := s.dropFetch) (by rw [am])
  have entry : ∀ m, s.dropFetch.entry m = s.entry m := fun m => State.entry_of_am m am
  constructor
  · intro resetting
    have command : s.dropFetch.espf = .error .referencedHazard := if_pos (hazard.trans resetting)
    obtain ⟨refused, -⟩ := State.eruRead_espf there
    rw [exec_tie (by decide)]
    exact congrArg (receiveRegister · m) (refused _ command)
  · intro ready
    have command : s.dropFetch.espf = .ok ((s.dropFetch.showDescriptor s.lru).referenceByCommand s.lru) := by
      rw [← lru]
      exact if_neg (by rw [hazard, ready]; decide)
    obtain ⟨-, read⟩ := State.eruRead_espf there
    obtain ⟨run, -, others, ind, mem, -⟩ := exec_tie_of (n := 16#5) (by decide) m (read _ command)
    refine ⟨_, run, ?_, rfl, ?_, ?_, others, ind, mem⟩
    · show s.dropFetch.plat.pdLayout.word s.dropFetch.atc.rar (s.dropFetch.entry s.lru) = _
      rw [plat, rar, entry]
    · show (s.dropFetch.setReferenced s.lru).atc.am = _
      unfold State.setReferenced
      dsimp only
      rw [am, entry]
    · exact last s.lru

/-- A page number is compared by the controls, the page size and the entry. -/
theorem State.vpnEq_of {s t : State} (h : KeepsAtcControls s t) (ignore : BitVec 22) (e : AmEntry) (a : Word) :
    t.vpnEq ignore e a = s.vpnEq ignore e a := by
  obtain ⟨ca2, -, -, -, -, -, psr, -⟩ := h
  unfold State.vpnEq State.vpnMask
  rw [State.eff_of ca2, psr]

/-- PS and PSM: the entries that match are purged (21 R250, R251). -/
theorem exec_purge {n : BitVec 5} (high : 7 ≤ n.toNat) (k : RsuNum) {s : State} (ignore : BitVec 22)
    (command : s.dropFetch.eruWrite (1#2 ++ n) (s.rsu k) = s.dropFetch.purge ignore (s.rsu k)) (size : s.pageSizeOk = true) :
    ∃ t, exec (.toe n k) s = .next t ∧
      (∀ i, i < 16 → t.entry i = if s.vpnEq ignore (s.entry i) (s.rsu k) = true then { s.entry i with ir := true, rr := false }
        else s.entry i) ∧
      t.atc.reqsOnce = true ∧ t.atc.varb = s.atc.varb ∧ t.atc.rar = s.atc.rar ∧ t.atc.ddr = s.atc.ddr ∧
      (∀ r, t.rsu r = s.rsu r) ∧ t.cpc.ind = s.cpc.ind ∧ t.mem = s.mem := by
  obtain ⟨am, controls, -⟩ := s.dropFetch_keeps
  obtain ⟨atc, -⟩ := s.dropFetch_atc
  have field := fun {α : Type} (f : Atc → α) => congrArg f atc
  have purged : s.dropFetch.purge ignore (s.rsu k) = .ok { s.dropFetch.atcReceived with atc := { s.dropFetch.atcReceived.atc with
      am := mapAm (fun e => if s.dropFetch.vpnEq ignore e (s.rsu k) = true then { e with ir := true, rr := false } else e)
        s.dropFetch.atcReceived.atc.am
      reqsOnce := true } } := if_neg (by rw [controls.pageSizeOk, size]; decide)
  obtain ⟨run, rsu, ind, mem, -⟩ := exec_toe_of high k (command.trans purged)
  refine ⟨_, run, fun i hi => ?_, rfl, field Atc.varb, field Atc.rar, field Atc.ddr, rsu, ind, mem⟩
  rw [State.entry_of_mapAm (s := s.dropFetch) rfl hi, State.vpnEq_of controls, State.entry_of_am i am]

/-- Settles O15: each command by what it does to the entries. -/
theorem associativeMemoryCommands : Obligations.AssociativeMemoryCommands := by
  refine ⟨fun k s present => ?_, fun j k s present size free => ?_, fun m s present => ?_, fun k s present size => ?_⟩
  · have there := State.dropFetch_present present
    obtain ⟨am, -⟩ := s.dropFetch_keeps
    have entry : ∀ m, s.dropFetch.entry m = s.entry m := fun m => State.entry_of_am m am
    constructor
    · obtain ⟨run, rsu, ind, mem, -⟩ := exec_toe_of (n := 16#5) (by decide) k (State.eru_of_present there _ _)
      refine ⟨_, run, fun i hi => ?_, rsu, ind, mem⟩
      rw [State.entry_of_mapAm (s := s.dropFetch) rfl hi, entry]
    · obtain ⟨run, -, others, ind, mem, -⟩ := exec_tie_of (n := 19#5) (by decide) k (State.eru_of_present there _ _)
      refine ⟨_, run, fun i hi => ?_, others, ind, mem⟩
      rw [State.entry_of_mapAm (s := s.dropFetch) rfl hi, entry]
  · obtain ⟨t, runT, u, runU, filled, rsu, mem⟩ := fills_entry j k present size free
    refine ⟨t, runT, u, runU, fun more => ?_, fun i _ other more => ?_, rsu, mem⟩
    · have here := filled more s.lru
      rw [if_pos rfl] at here
      rw [here]
      refine ⟨rfl, rfl, fun layout => ?_⟩
      rw [layout]
      exact PdLayout.load_default (s.rsu k) (s.entry s.lru)
    · rw [filled more i, if_neg other]
  · obtain ⟨refused, shown⟩ := exec_espf m present
    refine ⟨refused, fun ready => ?_⟩
    obtain ⟨t, run, rar, ddr, am, hazard, others, ind, mem⟩ := shown ready
    refine ⟨t, run, rar, ddr, fun layout => ?_, am, hazard, others, ind, mem⟩
    rw [rar, layout]
    exact PdLayout.word_default _ _
  · intro purges
    have there := State.dropFetch_present present
    obtain ⟨-, ⟨-, -, -, -, -, -, -, pmr, -⟩, -⟩ := s.dropFetch_keeps
    refine ⟨exec_purge (n := 20#5) (by decide) k _ (State.eru_of_present there _ _) size,
      exec_purge (n := 22#5) (by decide) k _ ?_ size⟩
    rw [← pmr]
    exact State.eru_of_present there _ _

end Sys2Proof.Machine
end

section
/-! The translation without a memory operation, TVA (21). -/

namespace Sys2Proof.Machine

/-- The address latched by TVA, and its request of the bus (21 R252). -/
def State.latchTranslation (s : State) (d : Word) : State := { s with atc := { s.atc with varb := s.eff d, reqsOnce := true } }

/-- TVA without a match (21 R252; 93 U11). -/
theorem State.translateOnly_none {s : State} (ready : s.atc.rrResetting = false) (size : s.pageSizeOk = true) {d : Word}
    (none : s.hits d = []) : ∃ w v, s.translateOnly d = .ok { (s.latchTranslation d).post (itaBit 10 true) with
      fresh := s.fresh + 2
      atc := { ((s.latchTranslation d).post (itaBit 10 true)).atc with
        rar := s.atc.rar.extractLsb' 24 8 ++ ((w &&& s.frameMask) ||| (d &&& ~~~s.frameMask)).extractLsb' 0 24
        ddr := v } } := by
  have search : (s.latchTranslation d).hits d = [] := (State.hits_of_atc (s := s) (t := s.latchTranslation d) d rfl rfl rfl).trans none
  unfold State.latchTranslation at search
  refine ⟨((s.latchTranslation d).post (itaBit 10 true)).drawWord.1,
    ((s.latchTranslation d).post (itaBit 10 true)).drawWord.2.drawWord.1, ?_⟩
  unfold State.translateOnly
  rw [if_neg (by rw [ready]; decide), if_neg (by rw [size]; decide)]
  dsimp only
  rw [search]
  rfl

/-- The real address shown after a match of TVA. -/
def State.showTranslation (s : State) (d : Word) (i : Nat) : State := ((s.latchTranslation d).setReferenced i).loadRar
  (s.atc.rar.extractLsb' 24 8 ++ (s.realAddress d (s.entry i)).extractLsb' 2 22 ++ d.extractLsb' 0 2)

/-- What a match of TVA leaves in the ATC. -/
theorem State.showTranslation_atc (s : State) (d : Word) (i : Nat) : (s.showTranslation d i).atc = { s.atc with
    varb := s.eff d
    reqsOnce := true
    am := (s.setReferenced i).atc.am
    rar := s.atc.rar.extractLsb' 24 8 ++ (s.realAddress d (s.entry i)).extractLsb' 2 22 ++ d.extractLsb' 0 2
    ddr := s.atc.rar.extractLsb' 24 8 ++ (s.realAddress d (s.entry i)).extractLsb' 2 22 ++ d.extractLsb' 0 2 } := by
  unfold State.showTranslation
  rw [State.loadRar_atc]
  rfl

/-- TVA with one match (21 R252). -/
theorem State.translateOnly_one {s : State} (ready : s.atc.rrResetting = false) (size : s.pageSizeOk = true) {d : Word} {i : Nat}
    (one : s.hits d = [i]) : s.translateOnly d = .ok ((s.showTranslation d i).post
      (itaBit 11 (s.plat.tvaPosts && !s.permitted (s.entry i) (d.extractLsb' 0 2)))) := by
  have search : (s.latchTranslation d).hits d = [i] := (State.hits_of_atc (s := s) (t := s.latchTranslation d) d rfl rfl rfl).trans one
  unfold State.latchTranslation at search
  unfold State.translateOnly
  rw [if_neg (by rw [ready]; decide), if_neg (by rw [size]; decide)]
  dsimp only
  rw [search]
  rfl

/-- TVA with more than one match is refused (93 U12). -/
theorem State.translateOnly_more {s : State} (ready : s.atc.rrResetting = false) (size : s.pageSizeOk = true) {d : Word} {i i' : Nat}
    {l : List Nat} (more : s.hits d = i :: i' :: l) : s.translateOnly d = .error .multipleHits := by
  have search : (s.latchTranslation d).hits d = i :: i' :: l :=
    (State.hits_of_atc (s := s) (t := s.latchTranslation d) d rfl rfl rfl).trans more
  unfold State.latchTranslation at search
  unfold State.translateOnly
  rw [if_neg (by rw [ready]; decide), if_neg (by rw [size]; decide)]
  dsimp only
  rw [search]

/-- One condition posted (60 R702). -/
theorem State.post_one (s : State) {b : Nat} (h1 : 1 ≤ b) (c : Bool) {n : Nat} (n1 : 1 ≤ n) (n16 : n ≤ 16) :
    bitAt (s.post (itaBit b c)).atc.ita n = true ↔ bitAt s.atc.ita n = true ∨ (n = b ∧ c = true ∧ bitAt s.atc.imr n = false) := by
  rw [State.bitAt_post _ _ _ n1 n16, bitAt_itaBit _ _ _ h1 n1 n16]
  simp only [Bool.or_eq_true, Bool.and_eq_true, decide_eq_true_eq, Bool.not_eq_true']
  exact or_congr Iff.rfl ⟨fun ⟨⟨c, e⟩, m⟩ => ⟨e, c, m⟩, fun ⟨e, c, m⟩ => ⟨⟨c, e⟩, m⟩⟩

/-- The displacement within a page of 1K is no page frame bit (21 R222; 93 U11). -/
theorem State.displacement_kept (s : State) (w d : Word) :
    ((w &&& s.frameMask) ||| (d &&& ~~~s.frameMask)).toNat % 2 ^ 10 = d.toNat % 2 ^ 10 := by
  have low : ∀ x : Word, x.toNat % 2 ^ 10 = (x.extractLsb' 0 10).toNat := fun x => by rw [BitVec.extractLsb'_toNat, Nat.shiftRight_zero]
  have clear : ∀ i, i < 10 → s.frameMask.getLsbD i = false := fun i hi => by
    unfold State.frameMask
    split
    · interval_cases i <;> rfl
    · split <;> interval_cases i <;> rfl
  rw [low, low]
  congr 1
  apply BitVec.eq_of_getLsbD_eq
  intro i hi
  have inside : i < 32 := by omega
  simp only [BitVec.getLsbD_extractLsb', BitVec.getLsbD_or, BitVec.getLsbD_and, BitVec.getLsbD_not, Nat.zero_add, clear i hi]
  simp [inside]

/-- What a translation reads of the ATC: the entries, the control bits, the page size. -/
theorem State.translation_of {s t : State} (am : t.atc.am = s.atc.am) (ca2 : t.atc.ca2 = s.atc.ca2) (psr : t.atc.psr = s.atc.psr)
    (a : Word) : t.hits a = s.hits a ∧ t.eff a = s.eff a ∧ (∀ i, t.entry i = s.entry i) ∧
      (∀ e, t.realAddress a e = s.realAddress a e) ∧ (∀ e pc, t.permitted e pc = s.permitted e pc) ∧
      ∀ i, (t.setReferenced i).atc.am = (s.setReferenced i).atc.am := by
  have entry : ∀ i, t.entry i = s.entry i := fun i => State.entry_of_am i am
  refine ⟨State.hits_of_atc a am ca2 psr, State.eff_of ca2 a, entry, fun e => ?_, fun e pc => ?_, fun i => ?_⟩
  · unfold State.realAddress
    rw [psr]
  · unfold State.permitted State.ca2At
    rw [ca2]
  · unfold State.setReferenced
    dsimp only
    rw [am, entry]

/-- The word of a translated address, taken apart (21 R252). -/
theorem translated_parts (top : Byte) (r : BitVec 24) (d : Word) :
    (top ++ r.extractLsb' 2 22 ++ d.extractLsb' 0 2 : Word).toNat / 2 ^ 24 = top.toNat ∧
    (top ++ r.extractLsb' 2 22 ++ d.extractLsb' 0 2 : Word).toNat / 4 % 2 ^ 22 = r.toNat / 4 ∧
    (top ++ r.extractLsb' 2 22 ++ d.extractLsb' 0 2 : Word).toNat % 4 = d.toNat % 4 := by
  have small := r.isLt
  rw [toNat_join, toNat_join, toNat_part, toNat_part]
  omega

/-- TVA to an ATC that is there. -/
theorem eruWrite_translate {s : State} (present : s.plat.atcPresent = true) (d : Word) : s.eruWrite 55#7 d = s.translateOnly d :=
  State.eru_of_present present _ _

/-- Settles O16: the command by the number of entries that match. -/
theorem translateCommand : Obligations.TranslateCommand := by
  intro k s present size d posts common
  have there := State.dropFetch_present present
  obtain ⟨am, controls, -, -, -, plat, -, -, -, -, hazard⟩ := s.dropFetch_keeps
  obtain ⟨atc, ita⟩ := s.dropFetch_atc
  have rar : s.dropFetch.atc.rar = s.atc.rar := (congrArg Atc.rar atc :)
  obtain ⟨ca2, imr, -, -, -, -, psr, -⟩ := id controls
  obtain ⟨hits, eff, entry, real, permitted, referenced⟩ := State.translation_of am ca2 psr d
  have sizeU : s.dropFetch.pageSizeOk = true := controls.pageSizeOk.trans size
  have taken := fun t (h : s.dropFetch.translateOnly d = .ok t) =>
    exec_toe_of (n := 23#5) (by decide) k ((eruWrite_translate there d).trans h)
  have refused : ∀ r, s.dropFetch.translateOnly d = .error r → exec (.toe 23 k) s = .refused r := fun r h => by
    rw [exec_toe (by decide)]
    exact congrArg (settle · id) ((eruWrite_translate there d).trans h)
  generalize s.dropFetch = u at *
  refine ⟨fun resetting => refused _ (if_pos (hazard.trans resetting)),
    fun ready => ⟨fun none => ?_, fun i one => ?_, fun i i' l more => ?_⟩⟩
  · obtain ⟨w, v, run⟩ := State.translateOnly_none (hazard.trans ready) sizeU (hits.trans none)
    obtain ⟨next, rsu, ind, mem, pipe⟩ := taken _ run
    refine ⟨_, next, ⟨eff, rfl, ?_, rsu, ind, mem, pipe, controls⟩, fun n h4 h12 => ?_, am, ?_⟩
    · rw [← rar]
      show (u.atc.rar.extractLsb' 24 8 ++ _ : Word).toNat / 2 ^ 24 = _
      rw [toNat_join, toNat_part]
      have := u.atc.rar.isLt
      have := (BitVec.extractLsb' 0 24 ((w &&& u.frameMask) ||| (d &&& ~~~u.frameMask))).isLt
      omega
    · rw [← ita n (by omega) (by omega) (by omega), ← imr]
      refine (State.post_one (u.latchTranslation d) (by decide) true (by omega) (by omega)).trans ?_
      exact or_congr Iff.rfl (and_congr Iff.rfl (and_congr (iff_of_true rfl trivial) Iff.rfl))
    · rw [← u.displacement_kept w d]
      show (u.atc.rar.extractLsb' 24 8 ++ _ : Word).toNat % 2 ^ 10 = _
      rw [toNat_join, toNat_part _ 0 24]
      omega
  · have run := State.translateOnly_one (hazard.trans ready) sizeU (hits.trans one)
    obtain ⟨next, rsu, ind, mem, pipe⟩ := taken _ run
    obtain ⟨top, address, low⟩ := translated_parts (u.atc.rar.extractLsb' 24 8) (u.realAddress d (u.entry i)) d
    have left := u.showTranslation_atc d i
    have posted := fun n (h1 : 1 ≤ n) (h16 : n ≤ 16) => State.post_one (u.showTranslation d i) (b := 11) (by decide)
      (u.plat.tvaPosts && !u.permitted (u.entry i) (d.extractLsb' 0 2)) h1 h16
    generalize u.showTranslation d i = t at *
    have kept : KeepsAtcControls s t := by
      unfold KeepsAtcControls
      rw [left]
      exact controls
    refine ⟨_, next, ⟨?_, ?_, ?_, rsu, ind, mem, pipe, kept⟩, fun n h4 h12 => ?_, ?_, ?_, ?_, ?_⟩
    · rw [State.post_atc, left]
      exact eff
    · rw [State.post_atc, left]
    · rw [State.post_atc, left, ← rar]
      refine top.trans ?_
      rw [toNat_part]
      have := u.atc.rar.isLt
      omega
    · rw [← ita n (by omega) (by omega) (by omega), ← imr, ← plat, ← permitted, ← entry]
      refine (posted n (by omega) (by omega)).trans ?_
      rw [left, Bool.and_eq_true, Bool.not_eq_true']
    · rw [State.post_atc, left]
      exact referenced i
    · rw [State.post_atc, left]
    · rw [State.post_atc, left, ← real, ← entry]
      exact address
    · rw [State.post_atc, left]
      exact low
  · exact refused _ (State.translateOnly_more (hazard.trans ready) sizeU (hits.trans more))

end Sys2Proof.Machine
end

section
/-! The ports and the breakpoint hardware behind one of them (20, 41, 45, 60). -/

namespace Sys2Proof.Machine

/-- The controls of the ATC after a message to a port. -/
theorem keepsAtcControls_of_received {s t : State} (h : t.atc = { s.atc with rrResetting := false }) : KeepsAtcControls s t := by
  unfold KeepsAtcControls
  rw [h]
  exact ⟨rfl, rfl, rfl, rfl, rfl, rfl, rfl, rfl, rfl⟩

/-- TIP from any port: its register, and a fetched word goes by. -/
theorem exec_tip (p : BitVec 6) (k : RsuNum) (s : State) : ∃ t, exec (.tip p k) s = .next t ∧ t.rsu k = (s.dropFetch.portRead p).1 ∧
    KeepsRsu s t [k] ∧ { t.cpc with rsu := s.cpc.rsu } = { s.cpc with fetch := none } ∧ t.mem = s.mem ∧ t.pipe = s.pipe ∧
    t.bkpt = s.bkpt ∧ KeepsAtcControls s t := by
  obtain ⟨-, controls, dropCpc, dropMem, dropPipe, -, dropBkpt, -⟩ := s.dropFetch_keeps
  obtain ⟨rest, atc, bkpt⟩ := s.dropFetch.portRead_spec p
  have field : ∀ {α : Type} (f : State → α), f { (s.dropFetch.portRead p).2 with fresh := s.dropFetch.fresh, atc := s.dropFetch.atc } =
      f s.dropFetch := fun f => congrArg f rest
  have cpc : (s.dropFetch.portRead p).2.cpc = { s.cpc with fetch := none } := (field State.cpc).trans dropCpc
  refine ⟨(s.dropFetch.portRead p).2.setRsu k (s.dropFetch.portRead p).1, rfl, State.rsu_setRsu_same _ _, fun r hr => ?_, ?_,
    (field State.mem).trans dropMem, (field State.pipe).trans dropPipe, bkpt.trans dropBkpt,
    controls.trans (keepsAtcControls_of_received atc)⟩
  · rw [State.rsu_setRsu, if_neg fun e : k = r => hr (List.mem_singleton.mpr e.symm)]
    exact State.rsu_of_cpc (congrArg Cpc.rsu cpc :) r
  · rw [State.setRsu_cpc, cpc]

/-- TOP to any port: at most the breakpoint hardware, and a fetched word goes by. -/
theorem exec_top (p : BitVec 6) (k : RsuNum) (s : State) : ∃ t, exec (.top p k) s = .next t ∧ t = s.dropFetch.portWrite p (s.rsu k) ∧
    t.cpc = { s.cpc with fetch := none } ∧ t.mem = s.mem ∧ t.pipe = s.pipe ∧ t.plat = s.plat ∧ KeepsAtcControls s t ∧
    (s.plat.bkptHw = false ∨ s.plat.mcrPort ≠ p → t.bkpt = s.bkpt) := by
  obtain ⟨-, controls, dropCpc, dropMem, dropPipe, dropPlat, dropBkpt, -⟩ := s.dropFetch_keeps
  obtain ⟨rest, atc, bkpt⟩ := s.dropFetch.portWrite_spec p (s.rsu k)
  have field : ∀ {α : Type} (f : State → α), f { s.dropFetch.portWrite p (s.rsu k) with
      bkpt := s.dropFetch.bkpt, fresh := s.dropFetch.fresh, atc := s.dropFetch.atc } = f s.dropFetch := fun f => congrArg f rest
  rw [dropPlat] at bkpt
  exact ⟨_, rfl, rfl, (field State.cpc).trans dropCpc, (field State.mem).trans dropMem, (field State.pipe).trans dropPipe,
    (field State.plat).trans dropPlat, controls.trans (keepsAtcControls_of_received atc), fun other => (bkpt other).trans dropBkpt⟩

/-- The port of the breakpoint hardware, as the hardware tells it. -/
theorem State.isPort {s : State} (hardware : s.plat.bkptHw = true) :
    (s.plat.bkptHw && s.plat.mcrPort == s.plat.mcrPort) = true := by
  rw [hardware, beq_self_eq_true, Bool.and_self]

/-- The Maintenance Control Register (60 R730). -/
theorem State.portWrite_mcr {s : State} (hardware : s.plat.bkptHw = true) (d : Word) :
    (s.portWrite s.plat.mcrPort d).bkpt = { s.bkpt with
      enable := bitAt d s.plat.mcrEnableBit
      trap := s.bkpt.trap && bitAt d s.plat.mcrTrapBit } := by
  unfold State.portWrite
  rw [if_pos (State.isPort hardware)]

/-- The Maintenance Status Register: the two bits, if their places are two (60 R730). -/
theorem State.portRead_msr {s : State} (hardware : s.plat.bkptHw = true) (e1 : 1 ≤ s.plat.mcrEnableBit) (e32 : s.plat.mcrEnableBit ≤ 32)
    (t1 : 1 ≤ s.plat.mcrTrapBit) (t32 : s.plat.mcrTrapBit ≤ 32) (two : s.plat.mcrEnableBit ≠ s.plat.mcrTrapBit) :
    bitAt (s.portRead s.plat.mcrPort).1 s.plat.mcrEnableBit = s.bkpt.enable ∧
      bitAt (s.portRead s.plat.mcrPort).1 s.plat.mcrTrapBit = s.bkpt.trap := by
  have word : (s.portRead s.plat.mcrPort).1 = putBit (putBit s.atcReceived.readNothing.1 s.plat.mcrEnableBit s.bkpt.enable)
      s.plat.mcrTrapBit s.bkpt.trap := by
    unfold State.portRead
    dsimp only
    rw [if_pos (State.isPort hardware)]
  rw [word, bitAt_putBit _ _ _ _ t1 t32 e1, if_neg (Ne.symm two), bitAt_putBit _ _ _ _ e1 e32 e1, if_pos rfl,
    bitAt_putBit _ _ _ _ t1 t32 t1, if_pos rfl]
  exact ⟨rfl, rfl⟩

/-- Settles O18: a port by what it reads and writes, DJOR by the breakpoint it presents. -/
theorem portsAndBreakpointHardware : Obligations.PortsAndBreakpointHardware := by
  refine ⟨fun p k s other => ⟨?_, ?_⟩, fun k m s hardware e1 e32 t1 t32 two => ?_, fun j k s hardware j05 canonical => ?_⟩
  · obtain ⟨t, run, -, others, cpc, mem, pipe, bkpt, controls⟩ := exec_tip p k s
    exact ⟨t, run, others, cpc, mem, pipe, bkpt, controls⟩
  · obtain ⟨t, run, -, cpc, mem, pipe, -, controls, bkpt⟩ := exec_top p k s
    exact ⟨t, run, cpc, mem, pipe, bkpt other, controls⟩
  · obtain ⟨-, -, -, -, -, dropPlat, dropBkpt, -⟩ := s.dropFetch_keeps
    obtain ⟨t, run, written, cpc, mem, -, plat, -⟩ := exec_top s.plat.mcrPort k s
    have control : t.bkpt = { s.bkpt with
        enable := bitAt (s.rsu k) s.plat.mcrEnableBit
        trap := s.bkpt.trap && bitAt (s.rsu k) s.plat.mcrTrapBit } := by
      have there := State.portWrite_mcr (s := s.dropFetch) (by rw [dropPlat]; exact hardware) (s.rsu k)
      rw [dropPlat, dropBkpt] at there
      rw [written, there]
    obtain ⟨-, -, -, -, -, tPlat, tBkpt, -⟩ := t.dropFetch_keeps
    obtain ⟨u, runU, word, others, -, memU, -⟩ := exec_tip s.plat.mcrPort m t
    have same : t.dropFetch.plat = s.plat := tPlat.trans plat
    obtain ⟨enable, trap⟩ := State.portRead_msr (s := t.dropFetch) (by rw [same]; exact hardware) (by rw [same]; exact e1)
      (by rw [same]; exact e32) (by rw [same]; exact t1) (by rw [same]; exact t32) (by rw [same]; exact two)
    rw [same, tBkpt] at enable trap
    refine ⟨t, run, congrArg Breakpoint.enable control, congrArg Breakpoint.trap control, (congrArg Breakpoint.ram control :), u, runU,
      by rw [word]; exact enable, by rw [word]; exact trap, fun r hr => (others r hr).trans ?_, memU.trans mem⟩
    exact State.rsu_of_cpc (congrArg Cpc.rsu cpc :) r
  · have presented : s.presentBkpt (bitAt j 2) (bitAt j 1) = { s with bkpt := { s.bkpt with presents := some (bitAt j 2) } } := by
      unfold State.presentBkpt
      rw [hardware, j05]
      rfl
    have run : exec (.djor j k) s =
        .next (({ s with bkpt := { s.bkpt with presents := some (bitAt j 2) } } : State).jumpDelayed (rightHalf (s.rsu k))) := by
      rw [← presented]
      rfl
    obtain ⟨ram, hit⟩ := State.advance_presented
      (s := ({ s with bkpt := { s.bkpt with presents := some (bitAt j 2) } } : State).jumpDelayed (rightHalf (s.rsu k)))
      (j06 := bitAt j 2) rfl canonical
    refine ⟨_, run, rfl, fun a => ?_, hit⟩
    rw [ram a]
    show (if a = (rightHalf (s.rsu k)).toNat then _ else _) = _
    rw [toNat_rightHalf]
    rfl

end Sys2Proof.Machine
end
